-- ==== Sys2Proof/Word.lean ====
section
/-! DEFINITION. The word and byte types of the block (R9, R90): bit 0 is the least significant bit. -/

namespace Sys2Proof

/-- The 32-bit command, data and response word of R90. -/
abbrev Word := BitVec 32

/-- A byte of the environment's byte memories (R220, R221). -/
abbrev Byte := BitVec 8

end Sys2Proof
end

