-- ==== Sys2Proof/Syntax.lean ====
section
/-! DEFINITION. The commands of the block: one constructor per row of `spec/opcode_table.json` (R95). -/

namespace Sys2Proof

/-- The three command ports (R5, R90): A the emulation core, B the display core, X the external collaborators. -/
inductive Port where
  | a
  | b
  | x
deriving DecidableEq, Repr

/-- The 43 command words of R95, in the table's order. A format I command carries its operand `idx` (R94);
a word that exists on several ports is one constructor per port. -/
inductive Instr where
  -- port A
  | lbxAcquire
  | lbxWpix (idx : Nat)
  | lbxPublish
  | lbxStatusA
  | arbWsize
  | arbWptr
  | arbWsamp (idx : Nat)
  | arbAdvw
  | arbWave (idx : Nat)
  | arbMixw (idx : Nat)
  | xfoRequest
  | xfoWaitack
  | xfoExec
  | xfoRelease
  | xfoWaitresume
  | xfoStatusA
  | padCur (idx : Nat)
  | padPushed
  | padRaw (idx : Nat)
  | fsgFrame
  | fsgGest
  | fsgSys
  | fsgDstateA
  | ctlFaultA
  -- port B
  | lbxPoll
  | lbxRpix (idx : Nat)
  | lbxReturn
  | lbxStatusB
  | arbRsize
  | arbRptr
  | arbRsamp (idx : Nat)
  | arbAdvr
  | xfoIsexist
  | xfoAck
  | xfoResume
  | xfoStatusB
  | fsgDsync
  | fsgDstateB
  | ctlFaultB
  -- port X
  | padReport (idx : Nat)
  | padDetach (idx : Nat)
  | fsgLock
  | ctlFaultX
deriving DecidableEq, Repr

end Sys2Proof
end

