-- ==== Sys2Proof/WellFormed.lean ====
section
/-! DEFINITION. When a command term is well-formed: the operand of a format I command fits the 16-bit IDX field
(R91, R94). An operand outside its command's own range is well-formed: it decodes, and the command raises
`Fault(RANGE)` or `Fault(ARB_WINDOW)` (R96). -/

namespace Sys2Proof

/-- The operand fits IDX, bits 15:0 of the command word (R91). -/
abbrev IdxFits (idx : Nat) : Prop := idx < 65536

/-- R94: the operand of a format I command is an unsigned 16-bit integer; a format N command has none. -/
def Instr.wf : Instr → Bool
  | .lbxWpix idx | .arbWsamp idx | .arbWave idx | .arbMixw idx | .padCur idx | .padRaw idx
  | .lbxRpix idx | .arbRsamp idx | .padReport idx | .padDetach idx => decide (IdxFits idx)
  | .lbxAcquire | .lbxPublish | .lbxStatusA | .arbWsize | .arbWptr | .arbAdvw
  | .xfoRequest | .xfoWaitack | .xfoExec | .xfoRelease | .xfoWaitresume | .xfoStatusA
  | .padPushed | .fsgFrame | .fsgGest | .fsgSys | .fsgDstateA | .ctlFaultA
  | .lbxPoll | .lbxReturn | .lbxStatusB | .arbRsize | .arbRptr | .arbAdvr
  | .xfoIsexist | .xfoAck | .xfoResume | .xfoStatusB | .fsgDsync | .fsgDstateB | .ctlFaultB
  | .fsgLock | .ctlFaultX => true

end Sys2Proof
end

