-- ==== Sys2Proof/Decode.lean ====
section
/-! DEFINITION. The decoder of R91 to R97, total on every 32-bit word and rejecting by name; then the encoder and
the machine-readable opcode table of R95. -/

namespace Sys2Proof

/-- The numbers of the PORT field (R91). -/
def Port.number : Port → BitVec 4
  | .a => 0
  | .b => 1
  | .x => 2

/-- Why a word is illegal (R96). -/
inductive DecodeError where
  /-- PORT 3 to 15. -/
  | reservedPort
  /-- UNIT 5 to 14. -/
  | reservedUnit
  /-- An FN value not listed for the (PORT, UNIT) pair. -/
  | unlistedFn
  /-- A format N word whose IDX is not 0. -/
  | nonzeroIdx
deriving DecidableEq, Repr

/-- The fields of the command word (R91). -/
structure Fields where
  port : BitVec 4
  unit : BitVec 4
  fn : BitVec 8
  idx : BitVec 16
deriving DecidableEq, Repr

/-- R91: PORT is bits 31:28, UNIT bits 27:24, FN bits 23:16, IDX bits 15:0. -/
def fieldsOf (w : Word) : Fields where
  port := w.extractLsb' 28 4
  unit := w.extractLsb' 24 4
  fn := w.extractLsb' 16 8
  idx := w.extractLsb' 0 16

/-- The word with the given fields (R91). -/
def wordOf (f : Fields) : Word := f.port ++ f.unit ++ f.fn ++ f.idx

/-- A format N word: IDX must be 0 (R94). -/
def formatN (i : Instr) (idx : Nat) : Except DecodeError Instr :=
  if idx = 0 then .ok i else .error .nonzeroIdx

/-- What an unmatched (UNIT, FN) pair of a listed port is called (R96). -/
def unmatched (unit : Nat) : Except DecodeError Instr :=
  if 5 ≤ unit ∧ unit ≤ 14 then .error .reservedUnit else .error .unlistedFn

/-- The rows of port A in R95, by UNIT and FN. -/
def decodeA (unit fn idx : Nat) : Except DecodeError Instr :=
  match unit, fn with
  | 0, 0 => formatN .lbxAcquire idx
  | 0, 1 => .ok (.lbxWpix idx)
  | 0, 2 => formatN .lbxPublish idx
  | 0, 3 => formatN .lbxStatusA idx
  | 1, 0 => formatN .arbWsize idx
  | 1, 1 => formatN .arbWptr idx
  | 1, 2 => .ok (.arbWsamp idx)
  | 1, 3 => formatN .arbAdvw idx
  | 1, 4 => .ok (.arbWave idx)
  | 1, 5 => .ok (.arbMixw idx)
  | 2, 0 => formatN .xfoRequest idx
  | 2, 1 => formatN .xfoWaitack idx
  | 2, 2 => formatN .xfoExec idx
  | 2, 3 => formatN .xfoRelease idx
  | 2, 4 => formatN .xfoWaitresume idx
  | 2, 5 => formatN .xfoStatusA idx
  | 3, 0 => .ok (.padCur idx)
  | 3, 1 => formatN .padPushed idx
  | 3, 2 => .ok (.padRaw idx)
  | 4, 0 => formatN .fsgFrame idx
  | 4, 1 => formatN .fsgGest idx
  | 4, 2 => formatN .fsgSys idx
  | 4, 3 => formatN .fsgDstateA idx
  | 15, 0 => formatN .ctlFaultA idx
  | _, _ => unmatched unit

/-- The rows of port B in R95, by UNIT and FN. -/
def decodeB (unit fn idx : Nat) : Except DecodeError Instr :=
  match unit, fn with
  | 0, 0 => formatN .lbxPoll idx
  | 0, 1 => .ok (.lbxRpix idx)
  | 0, 2 => formatN .lbxReturn idx
  | 0, 3 => formatN .lbxStatusB idx
  | 1, 0 => formatN .arbRsize idx
  | 1, 1 => formatN .arbRptr idx
  | 1, 2 => .ok (.arbRsamp idx)
  | 1, 3 => formatN .arbAdvr idx
  | 2, 0 => formatN .xfoIsexist idx
  | 2, 1 => formatN .xfoAck idx
  | 2, 2 => formatN .xfoResume idx
  | 2, 5 => formatN .xfoStatusB idx
  | 4, 0 => formatN .fsgDsync idx
  | 4, 3 => formatN .fsgDstateB idx
  | 15, 0 => formatN .ctlFaultB idx
  | _, _ => unmatched unit

/-- The rows of port X in R95, by UNIT and FN. -/
def decodeX (unit fn idx : Nat) : Except DecodeError Instr :=
  match unit, fn with
  | 3, 0 => .ok (.padReport idx)
  | 3, 1 => .ok (.padDetach idx)
  | 4, 0 => formatN .fsgLock idx
  | 15, 0 => formatN .ctlFaultX idx
  | _, _ => unmatched unit

/-- The decoder: by PORT, then UNIT and FN, then the format's rule for IDX (R91, R94, R95, R96). -/
def decodeFields (f : Fields) : Except DecodeError Instr :=
  match f.port.toNat with
  | 0 => decodeA f.unit.toNat f.fn.toNat f.idx.toNat
  | 1 => decodeB f.unit.toNat f.fn.toNat f.idx.toNat
  | 2 => decodeX f.unit.toNat f.fn.toNat f.idx.toNat
  | _ => .error .reservedPort

/-- The command a 32-bit word stands for, or why it is illegal (R95, R96, R97). -/
def decode (w : Word) : Except DecodeError Instr := decodeFields (fieldsOf w)

/-- The command of an instruction whose bits are `w`: one 32-bit word, no other length (R97). -/
def decodeTableWord (nbits w : Nat) : Option Instr :=
  if nbits ≤ 32 then
    match decode (BitVec.ofNat 32 (w % 2 ^ nbits)) with
    | .ok i => some i
    | .error _ => none
  else none

/-- The port whose command this is: the PORT field of its word (R95, R260). -/
def Instr.port : Instr → Port
  | .lbxAcquire | .lbxWpix _ | .lbxPublish | .lbxStatusA | .arbWsize | .arbWptr | .arbWsamp _ | .arbAdvw
  | .arbWave _ | .arbMixw _ | .xfoRequest | .xfoWaitack | .xfoExec | .xfoRelease | .xfoWaitresume
  | .xfoStatusA | .padCur _ | .padPushed | .padRaw _ | .fsgFrame | .fsgGest | .fsgSys | .fsgDstateA
  | .ctlFaultA => .a
  | .lbxPoll | .lbxRpix _ | .lbxReturn | .lbxStatusB | .arbRsize | .arbRptr | .arbRsamp _ | .arbAdvr
  | .xfoIsexist | .xfoAck | .xfoResume | .xfoStatusB | .fsgDsync | .fsgDstateB | .ctlFaultB => .b
  | .padReport _ | .padDetach _ | .fsgLock | .ctlFaultX => .x

/-- UNIT, FN and IDX of a command's word (R95); IDX is the operand of a format I command and 0 in format N. -/
def Instr.unitFnIdx : Instr → BitVec 4 × BitVec 8 × Nat
  | .lbxAcquire => (0, 0, 0)
  | .lbxWpix idx => (0, 1, idx)
  | .lbxPublish => (0, 2, 0)
  | .lbxStatusA => (0, 3, 0)
  | .arbWsize => (1, 0, 0)
  | .arbWptr => (1, 1, 0)
  | .arbWsamp idx => (1, 2, idx)
  | .arbAdvw => (1, 3, 0)
  | .arbWave idx => (1, 4, idx)
  | .arbMixw idx => (1, 5, idx)
  | .xfoRequest => (2, 0, 0)
  | .xfoWaitack => (2, 1, 0)
  | .xfoExec => (2, 2, 0)
  | .xfoRelease => (2, 3, 0)
  | .xfoWaitresume => (2, 4, 0)
  | .xfoStatusA => (2, 5, 0)
  | .padCur idx => (3, 0, idx)
  | .padPushed => (3, 1, 0)
  | .padRaw idx => (3, 2, idx)
  | .fsgFrame => (4, 0, 0)
  | .fsgGest => (4, 1, 0)
  | .fsgSys => (4, 2, 0)
  | .fsgDstateA => (4, 3, 0)
  | .ctlFaultA => (15, 0, 0)
  | .lbxPoll => (0, 0, 0)
  | .lbxRpix idx => (0, 1, idx)
  | .lbxReturn => (0, 2, 0)
  | .lbxStatusB => (0, 3, 0)
  | .arbRsize => (1, 0, 0)
  | .arbRptr => (1, 1, 0)
  | .arbRsamp idx => (1, 2, idx)
  | .arbAdvr => (1, 3, 0)
  | .xfoIsexist => (2, 0, 0)
  | .xfoAck => (2, 1, 0)
  | .xfoResume => (2, 2, 0)
  | .xfoStatusB => (2, 5, 0)
  | .fsgDsync => (4, 0, 0)
  | .fsgDstateB => (4, 3, 0)
  | .ctlFaultB => (15, 0, 0)
  | .padReport idx => (3, 0, idx)
  | .padDetach idx => (3, 1, idx)
  | .fsgLock => (4, 0, 0)
  | .ctlFaultX => (15, 0, 0)

/-- The encoder: the command word of a well-formed command (R91, R95). R91 and R94 give a command no operand of 65536 or
more; of a term that has one, the low 16 bits go into IDX. DESIGN CHOICE (log 24). -/
def encode (i : Instr) : Word :=
  wordOf { port := i.port.number, unit := i.unitFnIdx.1, fn := i.unitFnIdx.2.1, idx := BitVec.ofNat 16 i.unitFnIdx.2.2 }

/-- The `CTL.FAULT` command of each port (R255). -/
def ctlFaultOf : Port → Instr
  | .a => .ctlFaultA
  | .b => .ctlFaultB
  | .x => .ctlFaultX

/-- One row of the opcode map: the word's fixed bits and the mask under which a word matches (R93, R94, R95). -/
structure OpcodeRow where
  mnemonic : String
  port : Port
  pattern : Word
  mask : Word
deriving DecidableEq, Repr

/-- A word matches a row under the row's mask (R93). -/
abbrev OpcodeRow.Matches (r : OpcodeRow) (w : Word) : Prop := w &&& r.mask = r.pattern

/-- The opcode map of R95, transcribed from `spec/opcode_table.json` independently of the decoder. -/
def opcodeTable : List OpcodeRow :=
  [
   ⟨"LBX.ACQUIRE", .a, 0x00000000, 0xFFFFFFFF⟩,
   ⟨"LBX.WPIX", .a, 0x00010000, 0xFFFF0000⟩,
   ⟨"LBX.PUBLISH", .a, 0x00020000, 0xFFFFFFFF⟩,
   ⟨"LBX.STATUS", .a, 0x00030000, 0xFFFFFFFF⟩,
   ⟨"ARB.WSIZE", .a, 0x01000000, 0xFFFFFFFF⟩,
   ⟨"ARB.WPTR", .a, 0x01010000, 0xFFFFFFFF⟩,
   ⟨"ARB.WSAMP", .a, 0x01020000, 0xFFFF0000⟩,
   ⟨"ARB.ADVW", .a, 0x01030000, 0xFFFFFFFF⟩,
   ⟨"ARB.WAVE", .a, 0x01040000, 0xFFFF0000⟩,
   ⟨"ARB.MIXW", .a, 0x01050000, 0xFFFF0000⟩,
   ⟨"XFO.REQUEST", .a, 0x02000000, 0xFFFFFFFF⟩,
   ⟨"XFO.WAITACK", .a, 0x02010000, 0xFFFFFFFF⟩,
   ⟨"XFO.EXEC", .a, 0x02020000, 0xFFFFFFFF⟩,
   ⟨"XFO.RELEASE", .a, 0x02030000, 0xFFFFFFFF⟩,
   ⟨"XFO.WAITRESUME", .a, 0x02040000, 0xFFFFFFFF⟩,
   ⟨"XFO.STATUS", .a, 0x02050000, 0xFFFFFFFF⟩,
   ⟨"PAD.CUR", .a, 0x03000000, 0xFFFF0000⟩,
   ⟨"PAD.PUSHED", .a, 0x03010000, 0xFFFFFFFF⟩,
   ⟨"PAD.RAW", .a, 0x03020000, 0xFFFF0000⟩,
   ⟨"FSG.FRAME", .a, 0x04000000, 0xFFFFFFFF⟩,
   ⟨"FSG.GEST", .a, 0x04010000, 0xFFFFFFFF⟩,
   ⟨"FSG.SYS", .a, 0x04020000, 0xFFFFFFFF⟩,
   ⟨"FSG.DSTATE", .a, 0x04030000, 0xFFFFFFFF⟩,
   ⟨"CTL.FAULT", .a, 0x0F000000, 0xFFFFFFFF⟩,
   ⟨"LBX.POLL", .b, 0x10000000, 0xFFFFFFFF⟩,
   ⟨"LBX.RPIX", .b, 0x10010000, 0xFFFF0000⟩,
   ⟨"LBX.RETURN", .b, 0x10020000, 0xFFFFFFFF⟩,
   ⟨"LBX.STATUS", .b, 0x10030000, 0xFFFFFFFF⟩,
   ⟨"ARB.RSIZE", .b, 0x11000000, 0xFFFFFFFF⟩,
   ⟨"ARB.RPTR", .b, 0x11010000, 0xFFFFFFFF⟩,
   ⟨"ARB.RSAMP", .b, 0x11020000, 0xFFFF0000⟩,
   ⟨"ARB.ADVR", .b, 0x11030000, 0xFFFFFFFF⟩,
   ⟨"XFO.ISEXIST", .b, 0x12000000, 0xFFFFFFFF⟩,
   ⟨"XFO.ACK", .b, 0x12010000, 0xFFFFFFFF⟩,
   ⟨"XFO.RESUME", .b, 0x12020000, 0xFFFFFFFF⟩,
   ⟨"XFO.STATUS", .b, 0x12050000, 0xFFFFFFFF⟩,
   ⟨"FSG.DSYNC", .b, 0x14000000, 0xFFFFFFFF⟩,
   ⟨"FSG.DSTATE", .b, 0x14030000, 0xFFFFFFFF⟩,
   ⟨"CTL.FAULT", .b, 0x1F000000, 0xFFFFFFFF⟩,
   ⟨"PAD.REPORT", .x, 0x23000000, 0xFFFF0000⟩,
   ⟨"PAD.DETACH", .x, 0x23010000, 0xFFFF0000⟩,
   ⟨"FSG.LOCK", .x, 0x24000000, 0xFFFFFFFF⟩,
   ⟨"CTL.FAULT", .x, 0x2F000000, 0xFFFFFFFF⟩]

end Sys2Proof
end

