-- ==== Sys2Proof/Config.lean ====
section
/-! DEFINITION. The implementation parameters of R7, when a configuration is well-formed (R8), and the free
values: what the spec leaves open and no proof can see. The configuration is plain data that State carries and no
step changes, so that every statement holds for every configuration (log 1). -/

namespace Sys2Proof

/-- The parameters that R7 marks OPEN. -/
structure Config where
  /-- PIXEL_W: bits per pixel. -/
  pixelW : Nat
  /-- VIS_W: pixels of one console scanline. -/
  visW : Nat
  /-- MARGIN_L: offset of the first filled pixel. -/
  marginL : Nat
  /-- LINE_W: total pixels of one line buffer. -/
  lineW : Nat
  /-- RING_N: capacity of the audio ring in sample pairs. -/
  ringN : Nat
  /-- WAVE_W: bits of one waveform channel input. -/
  waveW : Nat
  /-- M_A. -/
  mA : Word
  /-- M_B. -/
  mB : Word
  /-- M_SELECT. -/
  mSelect : Word
  /-- M_START. -/
  mStart : Word
  /-- M_UP. -/
  mUp : Word
  /-- M_DOWN. -/
  mDown : Word
  /-- M_LEFT. -/
  mLeft : Word
  /-- M_RIGHT. -/
  mRight : Word
  /-- NV_BASE: the base address of the save-slot formula. -/
  nvBase : Nat
  /-- SLOT_SIZE: bytes of one save slot. -/
  slotSize : Nat
  /-- ERASE_BLOCK: erase-block size of the storage. -/
  eraseBlock : Nat
  /-- NUM_SLOTS: number of save slots. -/
  numSlots : Nat
  /-- MAGIC: the single-image magic signature. -/
  magic : List Byte
  /-- HEADER_SIZE: size of the fixed-size header. -/
  headerSize : Nat
  /-- `slotOf` of R225: entry `i` of the list is the slot assigned to catalog entry `i`; none or absent: no slot. -/
  slotOf : List (Option Nat)
deriving DecidableEq, Repr

/-- A ROMCatalogEntry (R223). -/
structure CatalogEntry where
  start : Nat
  size : Nat
  name : String
deriving DecidableEq, Repr

/-- NUM_LB (R7): exactly two line buffers exist; the two constructors' worth of a 1-bit buffer number. -/
def Config.numLb : Nat := 2
/-- PAD_SLOTS (R7). -/
def Config.padSlots : Nat := 2
/-- AXIS_LO (R7). -/
def Config.axisLo : Nat := 64
/-- AXIS_HI (R7). -/
def Config.axisHi : Nat := 192
/-- BTN_A (R7). -/
def Config.btnA : Byte := 0x01
/-- BTN_B (R7). -/
def Config.btnB : Byte := 0x02
/-- BTN_SELECT (R7). -/
def Config.btnSelect : Byte := 0x40
/-- BTN_START (R7). -/
def Config.btnStart : Byte := 0x80

/-- The eight masks of NativePadBits, in the order of R7. -/
def Config.masks (c : Config) : List Word :=
  [c.mA, c.mB, c.mSelect, c.mStart, c.mUp, c.mDown, c.mLeft, c.mRight]

/-- Exactly one bit of the word is 1: its value is a power of two. -/
abbrev OneBit (m : Word) : Prop := m.toNat = 2 ^ m.toNat.log2

/-- R7's constraints on the line-buffer parameters. -/
abbrev Config.LineOk (c : Config) : Prop :=
  1 ≤ c.pixelW ∧ c.pixelW ≤ 32 ∧ c.marginL + c.visW ≤ c.lineW ∧ c.lineW ≤ 65536

/-- R7's constraints on the audio parameters. -/
abbrev Config.AudioOk (c : Config) : Prop :=
  1 ≤ c.ringN ∧ c.ringN ≤ 65536 ∧ 1 ≤ c.waveW ∧ c.waveW ≤ 16

/-- R7's constraints on the masks: each one bit, pairwise distinct. -/
abbrev Config.MasksOk (c : Config) : Prop :=
  (OneBit c.mA ∧ OneBit c.mB ∧ OneBit c.mSelect ∧ OneBit c.mStart ∧
    OneBit c.mUp ∧ OneBit c.mDown ∧ OneBit c.mLeft ∧ OneBit c.mRight) ∧ c.masks.Nodup

/-- R7, R64, R225's constraints on the storage, with two that the spec only implies (DEDUCED, log 9): all slots
lie at addresses of the storage, and the header is long enough to hold the signature. -/
abbrev Config.StorageOk (c : Config) : Prop :=
  0 < c.slotSize ∧ c.slotSize % c.eraseBlock = 0 ∧ c.nvBase % c.eraseBlock = 0 ∧
  c.slotSize * c.numSlots ≤ c.nvBase ∧ c.magic.length ≤ c.headerSize ∧
  (∀ k ∈ c.slotOf.filterMap id, k < c.numSlots)

/-- A well-formed configuration (R8). -/
abbrev Config.WellFormed (c : Config) : Prop :=
  c.LineOk ∧ c.AudioOk ∧ c.MasksOk ∧ c.StorageOk

/-- The values the spec's own test vectors use (R7's defaults, RING_N = 4, the storage example of R224).
PRESUMED where the spec marks a default as general knowledge, DESIGN CHOICE for NUM_SLOTS, MAGIC, HEADER_SIZE and
`slotOf`, for which it gives no number (log 1). No statement rests on them. -/
def Config.vectors : Config where
  pixelW := 16
  visW := 256
  marginL := 32
  lineW := 320
  ringN := 4
  waveW := 8
  mA := 0x01
  mB := 0x02
  mSelect := 0x04
  mStart := 0x08
  mUp := 0x10
  mDown := 0x20
  mLeft := 0x40
  mRight := 0x80
  nvBase := 0x10080000
  slotSize := 8192
  eraseBlock := 4096
  numSlots := 8
  magic := [0x4D, 0x41, 0x47, 0x43]
  headerSize := 16
  slotOf := [some 0, some 1, some 2, some 3]

/-- What a pixel that nothing has written since reset holds (R26, U9): a FREE VALUE per use of the reset input,
buffer and index (log 2). -/
opaque Config.unwrittenPixel : Nat → BitVec 1 → Nat → Word

/-- What a sample position that nothing has written since reset holds, packed as R138 packs a pair (R31, U9): a
FREE VALUE per use of the reset input and position (log 2). -/
opaque Config.unwrittenSample : Nat → Nat → Word

/-- What a byte of the non-volatile storage holds before any flash operation of the model wrote it (R220): a FREE
VALUE per address (log 3). -/
opaque Config.unwrittenNv : Nat → Byte

/-- What a byte of the save region holds before anything wrote it (R221, U19): a FREE VALUE per offset (log 3). -/
opaque Config.unwrittenSave : Nat → Byte

/-- The archive parser of R230, "a function from the region to a list of entries": the function of the region's bytes,
each at its address in the storage, and of its base that the external parser (R6 (d)) is. It has no body, so a claim
holds for every parser (log 12). -/
opaque Config.parseArchive : (Nat → Byte) → Nat → List CatalogEntry

/-- The size field of the single image's catalog entry (R223, R230 state none): a FREE VALUE per base (log 12). -/
opaque Config.singleImageSize : Nat → Nat

/-- The identifying name of the single image's catalog entry (R223, R230 state none): a FREE VALUE per base
(log 12). -/
opaque Config.singleImageName : Nat → String

end Sys2Proof
end

