-- ==== Sys2Proof/Machine/State.lean ====
section
/-! DEFINITION. The complete state of the block (R22), of the environment (R220 to R223), of the clients'
procedures and of the inputs still to come, as plain data; the reasons a step can stop; the state after reset
(R47, R280). -/

namespace Sys2Proof.Machine

/-- A sparse store in one canonical form: keys strictly rising (`Store.Canonical`). A key that is not listed is an
element nothing has written; what it reads as is a free value of `Config` (log 2, log 3). -/
abbrev Store (α : Type) := List (Nat × α)

/-- The status of a response (R92). Value 3 is never returned (U11) and has no constructor. -/
inductive Status where
  /-- 0: the command did what its rule says. -/
  | ok
  /-- 1: the wait condition does not hold; nothing changed; repeat later. -/
  | retry
  /-- 2: the block is in or has just entered the fatal state. -/
  | fault
deriving DecidableEq, Repr

/-- The response to a command, with the port it is given on (R90, R92). -/
structure Answer where
  port : Port
  status : Status
  rdata : Word
deriving DecidableEq, Repr

/-- The thirteen causes of R252. -/
inductive FaultCode where
  | lbxPublishNotAcquired
  | lbxPublishWrongBuffer
  | lbxWriteNotOwned
  | lbxNoInflight
  | lbxNotStreaming
  | arbWriteOverrun
  | arbReadOverrun
  | arbWindow
  | xfoAckWithoutRequest
  | xfoProtocolA
  | xfoProtocolB
  | illegalCmd
  | range
deriving DecidableEq, Repr

/-- The DisplayEngine state `FSG.dstate` (R42). Value 3 is never held (U11) and has no constructor. -/
inductive DState where
  /-- 0 -/
  | waitValidTiming
  /-- 1 -/
  | streaming
  /-- 2 -/
  | parkedForFlash
deriving DecidableEq, Repr

/-- Unit LBX (R23 to R26). -/
structure Lbx where
  /-- `LBX.fill_sel` (R23). -/
  fillSel : BitVec 1
  /-- `LBX.acq` (R24). -/
  acq : Bool
  /-- `LBX.flt_valid` (R25). -/
  fltValid : Bool
  /-- `LBX.flt_sel` (R25). -/
  fltSel : BitVec 1
  /-- `LBX.pix[0]` (R26): the pixels written since reset, by index. -/
  pix0 : Store Word
  /-- `LBX.pix[1]` (R26). -/
  pix1 : Store Word
deriving DecidableEq, Repr

/-- An AudioSamplePair (R31): two 16-bit two's-complement values. -/
structure SamplePair where
  left : BitVec 16
  right : BitVec 16
deriving DecidableEq, Repr

/-- The five holding registers `ARB.wave[1..5]` (R32). -/
structure Waves where
  w1 : BitVec 16
  w2 : BitVec 16
  w3 : BitVec 16
  w4 : BitVec 16
  w5 : BitVec 16
deriving DecidableEq, Repr

/-- Unit ARB (R28 to R32). -/
structure Arb where
  /-- `ARB.wr` (R28). -/
  wr : Nat
  /-- `ARB.rd` (R29). -/
  rd : Nat
  /-- `ARB.samp` (R31): the pairs written since reset, by ring position. -/
  samp : Store SamplePair
  /-- `ARB.wave` (R32). -/
  wave : Waves
deriving DecidableEq, Repr

/-- Unit XFO (R33, R34). -/
structure Xfo where
  /-- `XFO.req` (R33). -/
  req : Bool
  /-- `XFO.ack` (R34). -/
  ack : Bool
deriving DecidableEq, Repr

/-- Unit PAD (R36 to R39). -/
structure Pad where
  /-- `PAD.raw[0]` (R36). -/
  raw0 : Word
  /-- `PAD.raw[1]` (R36). -/
  raw1 : Word
  /-- `PAD.cur[0]` (R37). -/
  cur0 : Word
  /-- `PAD.cur[1]` (R37). -/
  cur1 : Word
  /-- `PAD.pushed` (R38). -/
  pushed : Word
  /-- `PAD.prev` (R39). -/
  prev : Word
deriving DecidableEq, Repr

/-- Unit FSG (R40 to R43). -/
structure Fsg where
  /-- `FSG.gest` (R40): bit 0 PREV, bit 1 NEXT, bit 2 SAVE_RESET. -/
  gest : BitVec 3
  /-- `FSG.sys` (R41). -/
  sys : Bool
  /-- `FSG.dstate` (R42). -/
  dstate : DState
  /-- `FSG.lock` (R43). -/
  lock : Bool
deriving DecidableEq, Repr

/-- The catalog's mode (R223). -/
inductive CatalogMode where
  | singleImage
  | multiImage
deriving DecidableEq, Repr

/-- The environment's state (R220 to R223); not part of the block. -/
structure Env where
  /-- `NV` (R220): the bytes written by flash operations or preset, by address. -/
  nv : List Host.Cell
  /-- `SAVE` (R221): the bytes written, by offset. -/
  save : List Host.Cell
  /-- `dirty` (R222). -/
  dirty : Bool
  /-- MODEL'S OWN: whether `init` has parsed the catalog; from then on it is immutable (R223, log 23). -/
  parsed : Bool
  /-- `catalog` (R223). -/
  catalog : List CatalogEntry
  /-- `mode` (R223). -/
  mode : CatalogMode
  /-- `selectedIndex` (R223). -/
  selectedIndex : Nat
deriving DecidableEq, Repr

/-- The five channel values of one audio sample (R142). -/
structure Channels where
  c1 : Word
  c2 : Word
  c3 : Word
  c4 : Word
  c5 : Word
deriving DecidableEq, Repr

/-- What the external emulator makes in one frame (R207): scanlines and audio blocks, in its own order. -/
inductive Work where
  /-- One rendered scanline: the pixels it writes, by position in the scanline. -/
  | scanline (pixels : List (Nat × Word))
  /-- One audio block: the channel values of its samples. -/
  | audio (samples : List Channels)
deriving DecidableEq, Repr

/-- What the emulation core, port A's client, can be asked to do: commands, and the procedures of R99, R142, R164,
R207, R227, R228, R230, R232 and R240 (log 14). -/
inductive EmuJob where
  /-- Issue one command. -/
  | issue (i : Instr) (wdata : Word)
  /-- `repeat C until OK` (R99). -/
  | untilOk (i : Instr) (wdata : Word)
  /-- Fill and publish one scanline (R99, R207). -/
  | scanline (pixels : List (Nat × Word))
  /-- The producer's loop for the samples not yet written (R142). -/
  | audio (samples : List Channels)
  /-- One turn of the FrameScheduler loop (R207). -/
  | frame (work : List Work)
  /-- `save()` (R227). -/
  | save
  /-- `load()` (R228). -/
  | load
  /-- `catalog.next()` (R232). -/
  | catalogNext
  /-- `catalog.prev()` (R232). -/
  | catalogPrev
  /-- `init(base)` (R230). -/
  | catalogInit (base : Nat)
  /-- "reset emulation" (R240): an action of the external emulator, no effect on the block. -/
  | resetEmulation
deriving DecidableEq, Repr

/-- What the emulation core still has to do: jobs, and what only a job in progress leaves behind. No input can ask for
the latter, so `dirty` is cleared by a `save()` whose flash operation completed and by `load()` only (R222). -/
inductive EmuTask where
  /-- A job not yet begun, or a command of one in progress. -/
  | job (j : EmuJob)
  /-- The rest of a frame's turn once the inputs are read: act on the gesture report, or step the emulation (R207). -/
  | gestureThen (work : List Work)
  /-- `dirty <- 0`, the end of a `save()` that has run its flash operation (R227). -/
  | clearDirty
deriving DecidableEq, Repr

/-- What the display core, port B's client, still has to do: commands, and the procedures of R143, R165 and R206. -/
inductive DispTask where
  /-- Issue one command. -/
  | issue (i : Instr) (wdata : Word)
  /-- `repeat C until OK` (R99). -/
  | untilOk (i : Instr) (wdata : Word)
  /-- `processOrWaitIfExist()` (R165). -/
  | processOrWaitIfExist
  /-- The consumer's procedure, reading at most `most` pairs (R143). -/
  | audio (most : Nat)
  /-- The top of the DisplayEngine loop: WaitValidTiming (R206). `wanted` are the pixel indices the output needs,
  `most` bounds the audio it takes in one turn. DESIGN CHOICE (log 22): both are the same in every turn of one loop. -/
  | loop (wanted : List Nat) (most : Nat)
  /-- The top of a Streaming turn: the lock test (R206). -/
  | turn (wanted : List Nat) (most : Nat)
  /-- The request test of a Streaming turn (R206). -/
  | turnRequest (wanted : List Nat) (most : Nat)
  /-- The line consumption of a Streaming turn (R206). -/
  | turnLine (wanted : List Nat) (most : Nat)
deriving DecidableEq, Repr

/-- One input from outside, in the one total order of R71 (log 7). -/
inductive Input where
  /-- A client presents a command word and a data word on a port (R90). -/
  | command (port : Port) (cmd wdata : Word)
  /-- The reset input is asserted and released (R280, log 15). -/
  | reset
  /-- The external emulator writes the save region (R221). -/
  | saveWrite (off : Nat) (bytes : List Byte)
  /-- The external emulator raises the dirty flag (R222). -/
  | markDirty
  /-- The emulation core gets further jobs. -/
  | emuWork (jobs : List EmuJob)
  /-- The display core gets further tasks. -/
  | dispWork (tasks : List DispTask)
  /-- The emulation core makes its next move: at most one command. -/
  | runEmu
  /-- The display core makes its next move: at most one command. -/
  | runDisp
deriving DecidableEq, Repr

/-- The whole machine. -/
structure State where
  /-- The parameters of R7; no step changes them (log 1). -/
  cfg : Config
  lbx : Lbx
  arb : Arb
  xfo : Xfo
  pad : Pad
  fsg : Fsg
  /-- `CTL.fault` (R44): 0, or the cause code of the first fault. -/
  ctlFault : BitVec 8
  env : Env
  /-- MODEL'S OWN: the port on which the command being served arrived (R90, log 8). -/
  port : Port
  /-- MODEL'S OWN: the data word of the command being served (R90, log 8). -/
  wdata : Word
  /-- MODEL'S OWN: the response to the last command served (R90, R92, log 8); none before the first. -/
  answer : Option Answer
  /-- MODEL'S OWN: how often the reset input was used; it feeds the free values of the stores (log 2). -/
  epoch : Nat
  /-- MODEL'S OWN: the emulation core's remaining tasks (log 14). -/
  emu : List EmuTask
  /-- MODEL'S OWN: the display core's remaining tasks (log 14). -/
  disp : List DispTask
  /-- MODEL'S OWN: the inputs still to come (log 7). -/
  queue : List Input
deriving DecidableEq, Repr

/-- Why a step stops with a fault. The block itself never stops: its faults are next states (R251). -/
inductive Fault where
  /-- Raised by the input `saveWrite` outside the save region's SLOT_SIZE bytes, an address that R221 says does not
  exist. Safe: the emulator the spec describes never does it (log 11). -/
  | saveRegionRange
deriving DecidableEq, Repr

/-- Why a step is refused. -/
inductive Refusal where
  /-- Raised by an arm of `exec` whose instruction has no meaning yet. Safe: nothing can be proved of it. -/
  | notModelled (mnemonic : String)
  /-- Raised by `step` when the configuration is not well-formed: "A model refuses an ill-formed configuration" (R8,
  U2). Safe. -/
  | illFormedConfig
  /-- Raised by `XFO.EXEC , k` for `k >= NUM_SLOTS`: "the operation is undefined and a model refuses it" (R226,
  U15). Safe. -/
  | flashSlotUndefined
deriving DecidableEq, Repr

/-- Unit LBX after reset (R47). -/
def Lbx.reset : Lbx where
  fillSel := 0
  acq := false
  fltValid := false
  fltSel := 0
  pix0 := []
  pix1 := []

/-- The mixer inputs after reset (R32, R47). -/
def Waves.reset : Waves where
  w1 := 0
  w2 := 0
  w3 := 0
  w4 := 0
  w5 := 0

/-- Unit ARB after reset (R47). -/
def Arb.reset : Arb where
  wr := 0
  rd := 0
  samp := []
  wave := Waves.reset

/-- Unit XFO after reset (R47): idle. -/
def Xfo.reset : Xfo where
  req := false
  ack := false

/-- The default pad state: axes 0x80, buttons 0 (R36, R47, R176). -/
def Pad.absent : Word := 0x00808080

/-- Unit PAD after reset (R47). -/
def Pad.reset : Pad where
  raw0 := Pad.absent
  raw1 := Pad.absent
  cur0 := 0
  cur1 := 0
  pushed := 0
  prev := 0

/-- Unit FSG after reset (R47): WaitValidTiming, no lock. -/
def Fsg.reset : Fsg where
  gest := 0
  sys := false
  dstate := .waitValidTiming
  lock := false

/-- The environment before anything ran: nothing stored by the model, no catalog, selection 0 (log 3, log 4, log 5,
log 23). -/
def Env.initial : Env where
  nv := []
  save := []
  dirty := false
  parsed := false
  catalog := []
  mode := .multiImage
  selectedIndex := 0

/-- The machine right after reset with configuration `c` (R47, R280). -/
def State.resetWith (c : Config) : State where
  cfg := c
  lbx := Lbx.reset
  arb := Arb.reset
  xfo := Xfo.reset
  pad := Pad.reset
  fsg := Fsg.reset
  ctlFault := 0
  env := Env.initial
  port := .a
  wdata := 0
  answer := none
  epoch := 0
  emu := []
  disp := []
  queue := []

/-- The machine right after reset, with the parameter values of the spec's test vectors (R7, R47; log 1). -/
def State.reset : State := State.resetWith Config.vectors

end Sys2Proof.Machine
end

