-- ==== Sys2Proof/Machine/Operands.lean ====
section
/-! DEFINITION. Every operand form of the commands: the fields of `wdata` and of the stored words, the truncations
to a parameter's width, the ring arithmetic, and `wrap16` (R9, R30, R36, R94). -/

namespace Sys2Proof.Machine

/-- `zext_32` of a narrower word (R9). -/
def zext (v : BitVec n) : Word := v.setWidth 32

/-- A natural number as a 32-bit data word. The response values the rules give are all below 2^32 (R92), and so is every
count a client passes. A slot number that a client passes may not be: the spec bounds NUM_SLOTS nowhere (R7, R90), and the
word is then the low 32 bits of the number. DESIGN CHOICE (log 21). -/
def dataOf (n : Nat) : Word := BitVec.ofNat 32 n

/-- `wdata[0]` as a 1-bit number (R112). -/
def bit0 (w : Word) : BitVec 1 := w.extractLsb' 0 1

/-- `v[w-1:0]` of a 32-bit word, for a width `w` that is a parameter (R9, R111, R134). -/
def lowBits (w : Nat) (v : Word) : Nat := v.toNat % 2 ^ w

/-- `wdata[PIXEL_W-1:0]` (R111): higher bits are ignored. -/
def pixelOf (c : Config) (v : Word) : Word := BitVec.ofNat 32 (lowBits c.pixelW v)

/-- `wdata[WAVE_W-1:0]` (R134): higher bits are ignored. -/
def waveOf (c : Config) (v : Word) : BitVec 16 := BitVec.ofNat 16 (lowBits c.waveW v)

/-- A sample pair from the data path: left in bits 15:0, right in bits 31:16 (R132). -/
def pairOf (v : Word) : SamplePair where
  left := v.extractLsb' 0 16
  right := v.extractLsb' 16 16

/-- A sample pair on the data path (R138). -/
def packPair (p : SamplePair) : Word := p.right ++ p.left

/-- `axis0 = raw[7:0]` (R36). -/
def axis0 (raw : Word) : Byte := raw.extractLsb' 0 8

/-- `axis1 = raw[15:8]` (R36). -/
def axis1 (raw : Word) : Byte := raw.extractLsb' 8 8

/-- `axis2 = raw[23:16]` (R36); no rule reads it (C1). -/
def axis2 (raw : Word) : Byte := raw.extractLsb' 16 8

/-- `buttons = raw[31:24]` (R36). -/
def buttons (raw : Word) : Byte := raw.extractLsb' 24 8

/-- `unread = (wr - rd) mod (2*RING_N)` (R30). -/
def unread (c : Config) (a : Arb) : Nat := (((a.wr : Int) - a.rd) % (2 * c.ringN : Nat)).toNat

/-- `writable = RING_N - unread` (R30). Outside the invariant `unread <= RING_N` the difference stops at 0 (log 17). -/
def writable (c : Config) (a : Arb) : Nat := c.ringN - unread c a

/-- `readable = unread` (R30). -/
def readable (c : Config) (a : Arb) : Nat := unread c a

/-- The ring position of the offset `i` from a cursor (R132, R138); at `i = 0` it is `widx` or `ridx` (R30). -/
def ringPos (c : Config) (cursor i : Nat) : Nat := (cursor + i) % c.ringN

/-- A cursor moved by `n` (R133, R139). -/
def advance (c : Config) (cursor n : Nat) : Nat := (cursor + n) % (2 * c.ringN)

/-- `wrap16(z)`: the integer in [-32768, 32767] congruent to `z` modulo 65536 (R9). -/
def wrap16 (z : Int) : Int := Int.bmod z 65536

/-- The value of holding register `k`, 1 to 5 (R32); other numbers name none. -/
def Waves.get (w : Waves) (k : Nat) : BitVec 16 :=
  match k with
  | 1 => w.w1
  | 2 => w.w2
  | 3 => w.w3
  | 4 => w.w4
  | 5 => w.w5
  | _ => 0

/-- `ARB.wave[k] <- v` (R134) for `k` from 1 to 5; other numbers name no register. -/
def Waves.set (w : Waves) (k : Nat) (v : BitVec 16) : Waves :=
  match k with
  | 1 => { w with w1 := v }
  | 2 => { w with w2 := v }
  | 3 => { w with w3 := v }
  | 4 => { w with w4 := v }
  | 5 => { w with w5 := v }
  | _ => w

/-- `left` of R140, the exact integer sum. -/
def mixLeft (w1 w2 w3 w4 w5 : Int) : Int := w1 * 6 + w2 * 3 + w3 * 5 + w4 * 3 + w5 * 32

/-- `right` of R140, the exact integer sum. -/
def mixRight (w1 w2 w3 w4 w5 : Int) : Int := w1 * 3 + w2 * 6 + w3 * 5 + w4 * 3 + w5 * 32

/-- `Mix` of the five held inputs (R135, R140): unsigned inputs, exact sums, truncation to signed 16 bits. -/
def mix (w : Waves) : SamplePair where
  left := BitVec.ofInt 16 (wrap16 (mixLeft w.w1.toNat w.w2.toNat w.w3.toNat w.w4.toNat w.w5.toNat))
  right := BitVec.ofInt 16 (wrap16 (mixRight w.w1.toNat w.w2.toNat w.w3.toNat w.w4.toNat w.w5.toNat))

end Sys2Proof.Machine
end

