-- ==== Sys2Proof/Machine/Flags.lean ====
section
/-! DEFINITION. Every flag and status computation of the block: the numeric codes of its enumerations, the two
status words, and the three functions of the frame tick. The block has no arithmetic condition codes (R45). -/

namespace Sys2Proof.Machine

/-- The 2-bit status number (R92). -/
def Status.code : Status → BitVec 2
  | .ok => 0
  | .retry => 1
  | .fault => 2

/-- The cause codes (R252). -/
def FaultCode.code : FaultCode → BitVec 8
  | .lbxPublishNotAcquired => 0x01
  | .lbxPublishWrongBuffer => 0x02
  | .lbxWriteNotOwned => 0x03
  | .lbxNoInflight => 0x04
  | .lbxNotStreaming => 0x05
  | .arbWriteOverrun => 0x06
  | .arbReadOverrun => 0x07
  | .arbWindow => 0x08
  | .xfoAckWithoutRequest => 0x09
  | .xfoProtocolA => 0x0A
  | .xfoProtocolB => 0x0B
  | .illegalCmd => 0x0C
  | .range => 0x0D

/-- The encoding of `FSG.dstate` (R42). -/
def DState.code : DState → BitVec 2
  | .waitValidTiming => 0
  | .streaming => 1
  | .parkedForFlash => 2

/-- A flag as response data, `zext_32` of one bit. -/
def flagData (b : Bool) : Word := zext (BitVec.ofBool b)

/-- `{28'b0, flt_sel, flt_valid, acq, fill_sel}` (R113). -/
def lbxStatusWord (l : Lbx) : Word :=
  (0 : BitVec 28) ++ l.fltSel ++ BitVec.ofBool l.fltValid ++ BitVec.ofBool l.acq ++ l.fillSel

/-- `{30'b0, ack, req}` (R160). -/
def xfoStatusWord (x : Xfo) : Word := (0 : BitVec 30) ++ BitVec.ofBool x.ack ++ BitVec.ofBool x.req

/-- One of two exclusive directions of an axis: strictly below AXIS_LO, strictly above AXIS_HI, or none (R180). -/
def direction (c : Byte) (low high : Word) : Word :=
  if c.toNat < Config.axisLo then low else if c.toNat > Config.axisHi then high else 0

/-- The native bit of a device button, if it is pressed (R180). -/
def buttonBit (b mask : Byte) (native : Word) : Word := if b &&& mask ≠ 0 then native else 0

/-- `Translate(raw)` (R180). -/
def translate (c : Config) (raw : Word) : Word :=
  direction (axis0 raw) c.mLeft c.mRight ||| direction (axis1 raw) c.mUp c.mDown |||
  buttonBit (buttons raw) Config.btnA c.mA ||| buttonBit (buttons raw) Config.btnB c.mB |||
  buttonBit (buttons raw) Config.btnSelect c.mSelect ||| buttonBit (buttons raw) Config.btnStart c.mStart

/-- `Edge(cur, prev) = cur & ~prev` (R181). -/
def edge (cur prev : Word) : Word := cur &&& ~~~prev

/-- A word has some bit of a mask. -/
def has (w mask : Word) : Bool := w &&& mask != 0

/-- `Gesture(cur, pushed)` (R182): bit 0 PREV, bit 1 NEXT, bit 2 SAVE_RESET, only while select is held. -/
def gesture (c : Config) (cur pushed : Word) : BitVec 3 :=
  if has cur c.mSelect then
    BitVec.ofBool (has pushed c.mStart && has cur c.mA && has cur c.mB) ++
      BitVec.ofBool (has pushed c.mRight) ++ BitVec.ofBool (has pushed c.mLeft)
  else 0

/-- `FSG.sys`: 1 if any gesture fired (R41, R200). -/
def sysBit (g : BitVec 3) : Bool := g != 0

end Sys2Proof.Machine
end

