-- ==== Sys2Proof/Machine/Ops.lean ====
section
/-! DEFINITION. The named operations: the sparse stores and the byte memories, the responses of a command, taking
the fault of R251, and the only way out of it, reset (R254, R280). -/

namespace Sys2Proof.Machine

/-- How a command, or a step, ends. -/
abbrev Result := Host.Outcome State Fault Refusal

/-! ## Stores -/

/-- The element listed at a key, if any. -/
def Store.get? (k : Nat) : Store α → Option α
  | [] => none
  | (j, u) :: t => if j = k then some u else Store.get? k t

/-- Write one element, keeping the keys strictly rising. -/
def Store.put (k : Nat) (v : α) : Store α → Store α
  | [] => [(k, v)]
  | (j, u) :: t =>
    if k < j then (k, v) :: (j, u) :: t
    else if k = j then (k, v) :: t
    else (j, u) :: Store.put k v t

/-- The canonical form of a store: keys strictly rising. -/
abbrev Store.Canonical (m : Store α) : Prop := m.Pairwise (fun p q => p.1 < q.1)

/-- Write bytes at rising addresses (R63). -/
def Store.putAll (a : Nat) : List α → Store α → Store α
  | [], m => m
  | b :: bs, m => Store.putAll (a + 1) bs (Store.put a b m)

/-- Every store of the machine is in its canonical form. -/
abbrev Memory.wf (s : State) : Prop :=
  Store.Canonical s.lbx.pix0 ∧ Store.Canonical s.lbx.pix1 ∧ Store.Canonical s.arb.samp ∧
  Store.Canonical s.env.nv ∧ Store.Canonical s.env.save

/-! ## Writing one part of the state -/

def State.setLbx (s : State) (l : Lbx) : State := { s with lbx := l }
def State.setArb (s : State) (a : Arb) : State := { s with arb := a }
def State.setXfo (s : State) (x : Xfo) : State := { s with xfo := x }
def State.setPad (s : State) (p : Pad) : State := { s with pad := p }
def State.setFsg (s : State) (f : Fsg) : State := { s with fsg := f }
def State.setEnv (s : State) (e : Env) : State := { s with env := e }

/-- The command being served arrived on port `p` with data word `d` (R90). -/
def State.present (s : State) (p : Port) (d : Word) : State := { s with port := p, wdata := d }

/-! ## The pixel store (R26) -/

/-- The pixels written since reset in one line buffer. -/
def Lbx.pix (l : Lbx) (sel : BitVec 1) : Store Word := if sel = 0 then l.pix0 else l.pix1

/-- `LBX.pix[sel][i] <- v`. -/
def Lbx.writePixel (l : Lbx) (sel : BitVec 1) (i : Nat) (v : Word) : Lbx :=
  if sel = 0 then { l with pix0 := Store.put i v l.pix0 } else { l with pix1 := Store.put i v l.pix1 }

/-- `LBX.pix[sel][i]`: the pixel written last, or a free value of PIXEL_W bits where nothing wrote since reset
(R26, U9, log 2). -/
def State.pixel (s : State) (sel : BitVec 1) (i : Nat) : Word :=
  match Store.get? i (s.lbx.pix sel) with
  | some v => v
  | none => pixelOf s.cfg (Config.unwrittenPixel s.epoch sel i)

/-! ## The sample store (R31) -/

/-- `ARB.samp[j] <- p`. -/
def Arb.writeSample (a : Arb) (j : Nat) (p : SamplePair) : Arb := { a with samp := Store.put j p a.samp }

/-- `ARB.samp[j]`: the pair written last, or a free value where nothing wrote since reset (R31, U9, log 2). -/
def State.sample (s : State) (j : Nat) : SamplePair :=
  match Store.get? j s.arb.samp with
  | some p => p
  | none => pairOf (Config.unwrittenSample s.epoch j)

/-! ## The pad registers (R36, R37) -/

/-- `PAD.raw[slot]`. -/
def Pad.raw (p : Pad) (slot : Nat) : Word := if slot = 0 then p.raw0 else p.raw1

/-- `PAD.raw[slot] <- v`. -/
def Pad.setRaw (p : Pad) (slot : Nat) (v : Word) : Pad :=
  if slot = 0 then { p with raw0 := v } else { p with raw1 := v }

/-- `PAD.cur[player]`. -/
def Pad.cur (p : Pad) (player : Nat) : Word := if player = 0 then p.cur0 else p.cur1

/-! ## The byte memories of the environment (R220, R221) -/

/-- One byte of `NV`; a free value where the model wrote nothing (log 3). -/
def Env.nvByte (e : Env) (a : Nat) : Byte := (Store.get? a e.nv).getD (Config.unwrittenNv a)

/-- One byte of `SAVE`; a free value where nothing wrote (log 3). -/
def Env.saveByte (e : Env) (off : Nat) : Byte := (Store.get? off e.save).getD (Config.unwrittenSave off)

/-- `NvRead(a, n)` (R220). -/
def Env.nvRead (e : Env) (a n : Nat) : List Byte := (List.range n).map (fun j => e.nvByte (a + j))

/-- `SaveRead(off, n)` (R221). -/
def Env.saveRead (e : Env) (off n : Nat) : List Byte := (List.range n).map (fun j => e.saveByte (off + j))

/-- `NvWrite(a, n, bytes)` (R220). -/
def Env.nvWrite (e : Env) (a : Nat) (bytes : List Byte) : Env := { e with nv := Store.putAll a bytes e.nv }

/-- `SaveWrite(off, n, bytes)` (R221). -/
def Env.saveWrite (e : Env) (off : Nat) (bytes : List Byte) : Env :=
  { e with save := Store.putAll off bytes e.save }

/-! ## Responses (R90, R92) -/

/-- `respond (status, rdata)` on the port of the command (R10, R92). -/
def State.respond (s : State) (st : Status) (rdata : Word) : State :=
  { s with answer := some { port := s.port, status := st, rdata := rdata } }

/-- The command did what its rule says and answers `(OK, rdata)`. -/
def done (rdata : Word) (s : State) : Result := .next (s.respond .ok rdata)

/-- The wait condition does not hold: nothing changes, the answer is `(RETRY, 0)` (R92). -/
def retry (s : State) : Result := .next (s.respond .retry 0)

/-! ## The fault mechanism (R251) and reset (R280) -/

/-- The fatal state of R251: the first cause code is kept, and the answer is `(FAULT, CTL.fault)`. Nothing else is
written; there is no handler, vector, saved state or return (R254). -/
def State.takeFault (s : State) (c : FaultCode) : State :=
  let code := if s.ctlFault = 0 then c.code else s.ctlFault
  { s with ctlFault := code, answer := some { port := s.port, status := .fault, rdata := zext code } }

/-- `raise Fault(code)` (R10, R251). -/
def raise (c : FaultCode) (s : State) : Result := .next (s.takeFault c)

/-- What a dead block answers to every command but `CTL.FAULT`: `(FAULT, CTL.fault)`, nothing changed (R93 step 2). -/
def dead (s : State) : Result := .next (s.respond .fault (zext s.ctlFault))

/-- The reset input, asserted and released (R280): every register of the block has its reset value and the stores
hold unspecified contents; the environment, the configuration and the clients are not touched. It is the only way
out of the fatal state (R254). -/
def State.resetBlock (s : State) : State :=
  { s with
    lbx := Lbx.reset
    arb := Arb.reset
    xfo := Xfo.reset
    pad := Pad.reset
    fsg := Fsg.reset
    ctlFault := 0
    answer := none
    epoch := s.epoch + 1 }

end Sys2Proof.Machine
end

