-- ==== Sys2Proof/Machine/Arb.lean ====
section
/-! DEFINITION. Unit ARB, the audio ring-buffer controller and its mixer: R130 to R140. -/

namespace Sys2Proof.Machine

/-- `ARB.WSIZE` (R130): always OK, 0 when the ring is full. -/
def execArbWsize (s : State) : Result := done (dataOf (writable s.cfg s.arb)) s

/-- `ARB.WPTR` (R131): the ring position where the next pair goes. -/
def execArbWptr (s : State) : Result := done (dataOf (ringPos s.cfg s.arb.wr 0)) s

/-- `ARB.WSAMP` (R132): store one pair at an offset from the write cursor; the cursor does not move. -/
def execArbWsamp (idx : Nat) (s : State) : Result :=
  if idx ≥ writable s.cfg s.arb then raise .arbWindow s
  else done 0 (s.setArb (s.arb.writeSample (ringPos s.cfg s.arb.wr idx) (pairOf s.wdata)))

/-- `ARB.ADVW` (R133): `n = wdata` positions become readable. -/
def execArbAdvw (s : State) : Result :=
  if s.wdata.toNat > writable s.cfg s.arb then raise .arbWriteOverrun s
  else done 0 (s.setArb { s.arb with wr := advance s.cfg s.arb.wr s.wdata.toNat })

/-- `ARB.WAVE` (R134): load one mixer input, channels 1 to 5. -/
def execArbWave (idx : Nat) (s : State) : Result :=
  if idx < 1 ∨ idx > 5 then raise .range s
  else done 0 (s.setArb { s.arb with wave := s.arb.wave.set idx (waveOf s.cfg s.wdata) })

/-- `ARB.MIXW` (R135): mix the held inputs and store the pair at an offset from the write cursor. -/
def execArbMixw (idx : Nat) (s : State) : Result :=
  if idx ≥ writable s.cfg s.arb then raise .arbWindow s
  else done 0 (s.setArb (s.arb.writeSample (ringPos s.cfg s.arb.wr idx) (mix s.arb.wave)))

/-- `ARB.RSIZE` (R136): always OK, 0 when the ring is empty; legal in every display state. -/
def execArbRsize (s : State) : Result := done (dataOf (readable s.cfg s.arb)) s

/-- `ARB.RPTR` (R137): the ring position of the oldest unread pair. -/
def execArbRptr (s : State) : Result := done (dataOf (ringPos s.cfg s.arb.rd 0)) s

/-- `ARB.RSAMP` (R138): read one pair at an offset from the read cursor; reading does not consume. -/
def execArbRsamp (idx : Nat) (s : State) : Result :=
  if idx ≥ readable s.cfg s.arb then raise .arbWindow s
  else done (packPair (s.sample (ringPos s.cfg s.arb.rd idx))) s

/-- `ARB.ADVR` (R139): `n = wdata` positions become writable. -/
def execArbAdvr (s : State) : Result :=
  if s.wdata.toNat > readable s.cfg s.arb then raise .arbReadOverrun s
  else done 0 (s.setArb { s.arb with rd := advance s.cfg s.arb.rd s.wdata.toNat })

end Sys2Proof.Machine
end

