-- ==== Sys2Proof/Machine/Ctl.lean ====
section
/-! DEFINITION. Unit CTL: `CTL.FAULT` (R255), the one command that a dead block still answers with OK. -/

namespace Sys2Proof.Machine

/-- `CTL.FAULT` on port A (R255). -/
def execCtlFaultA (s : State) : Result := done (zext s.ctlFault) s

/-- `CTL.FAULT` on port B (R255). -/
def execCtlFaultB (s : State) : Result := done (zext s.ctlFault) s

/-- `CTL.FAULT` on port X (R255). -/
def execCtlFaultX (s : State) : Result := done (zext s.ctlFault) s

end Sys2Proof.Machine
end

