-- ==== Sys2Proof/Machine/Fsg.lean ====
section
/-! DEFINITION. Unit FSG, the frame-sync timing generator: R200 to R205. -/

namespace Sys2Proof.Machine

/-- The PAD registers after a frame tick (R200). -/
def framePad (c : Config) (p : Pad) : Pad :=
  { p with
    cur0 := translate c p.raw0
    cur1 := translate c p.raw1
    pushed := edge (translate c p.raw0) p.prev
    prev := translate c p.raw0 }

/-- The gestures a frame tick recognises (R200). -/
def frameGest (c : Config) (p : Pad) : BitVec 3 :=
  gesture c (translate c p.raw0) (edge (translate c p.raw0) p.prev)

/-- `FSG.FRAME` (R200): the frame tick; every right-hand side reads the state before the command. -/
def execFsgFrame (s : State) : Result :=
  done 0 ((s.setPad (framePad s.cfg s.pad)).setFsg
    { s.fsg with gest := frameGest s.cfg s.pad, sys := sysBit (frameGest s.cfg s.pad) })

/-- `FSG.GEST` (R201): reading does not clear. -/
def execFsgGest (s : State) : Result := done (zext s.fsg.gest) s

/-- `FSG.SYS` (R202). -/
def execFsgSys (s : State) : Result := done (flagData s.fsg.sys) s

/-- `FSG.DSTATE` on port A (R203). -/
def execFsgDstateA (s : State) : Result := done (zext s.fsg.dstate.code) s

/-- `FSG.DSTATE` on port B (R203). -/
def execFsgDstateB (s : State) : Result := done (zext s.fsg.dstate.code) s

/-- `FSG.DSYNC` (R204): the answer carries the state after the command, RETRY exactly when it is WaitValidTiming. -/
def execFsgDsync (s : State) : Result :=
  match s.fsg.dstate with
  | .waitValidTiming =>
    if s.fsg.lock = true then done 1 (s.setFsg { s.fsg with dstate := .streaming }) else retry s
  | .streaming =>
    if s.fsg.lock = false then retry (s.setFsg { s.fsg with dstate := .waitValidTiming }) else done 1 s
  | .parkedForFlash => done 2 s

/-- `FSG.LOCK` (R205): drive the line-lock input from `wdata[0]`; `FSG.dstate` does not move. -/
def execFsgLock (s : State) : Result :=
  done 0 (s.setFsg { s.fsg with lock := decide (bit0 s.wdata = 1) })

end Sys2Proof.Machine
end

