-- ==== Sys2Proof/Machine/Lbx.lean ====
section
/-! DEFINITION. Unit LBX, the dual-port line-buffer synchronizer: R110 to R116. -/

namespace Sys2Proof.Machine

/-- `LBX.ACQUIRE` (R110): never waits; repeating it changes nothing. -/
def execLbxAcquire (s : State) : Result :=
  done (zext s.lbx.fillSel) (s.setLbx { s.lbx with acq := true })

/-- `LBX.WPIX` (R111): the ownership check, the range check, then one pixel of the fill target at `MARGIN_L + idx`. -/
def execLbxWpix (idx : Nat) (s : State) : Result :=
  if s.lbx.acq = false then raise .lbxWriteNotOwned s
  else if idx ≥ s.cfg.visW then raise .range s
  else done 0 (s.setLbx (s.lbx.writePixel s.lbx.fillSel (s.cfg.marginL + idx) (pixelOf s.cfg s.wdata)))

/-- `LBX.PUBLISH` (R112): both contract checks come before the wait. -/
def execLbxPublish (s : State) : Result :=
  if s.lbx.acq = false then raise .lbxPublishNotAcquired s
  else if bit0 s.wdata ≠ s.lbx.fillSel then raise .lbxPublishWrongBuffer s
  else if s.lbx.fltValid = true then retry s
  else done 0 (s.setLbx { s.lbx with
    fltValid := true, fltSel := s.lbx.fillSel, fillSel := 1 - s.lbx.fillSel, acq := false })

/-- `LBX.STATUS` on port A (R113). -/
def execLbxStatusA (s : State) : Result := done (lbxStatusWord s.lbx) s

/-- `LBX.STATUS` on port B (R113): legal in every display state. -/
def execLbxStatusB (s : State) : Result := done (lbxStatusWord s.lbx) s

/-- `LBX.POLL` (R114): only while Streaming; does not take the buffer. -/
def execLbxPoll (s : State) : Result :=
  if s.fsg.dstate ≠ .streaming then raise .lbxNotStreaming s
  else if s.lbx.fltValid = false then retry s
  else done (zext s.lbx.fltSel) s

/-- `LBX.RPIX` (R115): one pixel of the in-flight buffer by absolute index; unwritten pixels are free values. -/
def execLbxRpix (idx : Nat) (s : State) : Result :=
  if s.fsg.dstate ≠ .streaming then raise .lbxNotStreaming s
  else if s.lbx.fltValid = false then raise .lbxNoInflight s
  else if idx ≥ s.cfg.lineW then raise .range s
  else done (s.pixel s.lbx.fltSel idx) s

/-- `LBX.RETURN` (R116): the pixels stay as they are. -/
def execLbxReturn (s : State) : Result :=
  if s.fsg.dstate ≠ .streaming then raise .lbxNotStreaming s
  else if s.lbx.fltValid = false then raise .lbxNoInflight s
  else done 0 (s.setLbx { s.lbx with fltValid := false })

end Sys2Proof.Machine
end

