-- ==== Sys2Proof/Machine/Pad.lean ====
section
/-! DEFINITION. Unit PAD, the input-pad latch and edge-detector: R175 to R179. -/

namespace Sys2Proof.Machine

/-- `PAD.REPORT` (R175): latch one whole report. -/
def execPadReport (idx : Nat) (s : State) : Result :=
  if idx > 1 then raise .range s
  else done 0 (s.setPad (s.pad.setRaw idx s.wdata))

/-- `PAD.DETACH` (R176): the slot's device is absent. -/
def execPadDetach (idx : Nat) (s : State) : Result :=
  if idx > 1 then raise .range s
  else done 0 (s.setPad (s.pad.setRaw idx Pad.absent))

/-- `PAD.CUR` (R177): a player's native bits as of the last frame tick. -/
def execPadCur (idx : Nat) (s : State) : Result :=
  if idx > 1 then raise .range s
  else done (s.pad.cur idx) s

/-- `PAD.PUSHED` (R178): player 1's rising edges of the last frame tick. -/
def execPadPushed (s : State) : Result := done s.pad.pushed s

/-- `PAD.RAW` (R179): a device slot's latch as it is now. -/
def execPadRaw (idx : Nat) (s : State) : Result :=
  if idx > 1 then raise .range s
  else done (s.pad.raw idx) s

end Sys2Proof.Machine
end

