-- ==== Sys2Proof/Machine/Environment.lean ====
section
/-! DEFINITION. The environment's functions: slot addressing, the flash operation, `load()` and the ROM catalog
(R224 to R232). None is a command of the block; `XFO.EXEC` performs the flash operation. -/

namespace Sys2Proof.Machine

/-- `SlotAddr(k) = NV_BASE - SLOT_SIZE * (k + 1)` (R224). -/
def slotAddr (c : Config) (k : Nat) : Nat := c.nvBase - c.slotSize * (k + 1)

/-- The net effect of `FlashOp(k)`: the slot's bytes become the save region's bytes, byte for byte (R226). -/
def flashSlot (c : Config) (k : Nat) (e : Env) : Env :=
  e.nvWrite (slotAddr c k) (e.saveRead 0 c.slotSize)

/-- `current()`: the entry at `selectedIndex`, or none if the catalog is empty (R231). -/
def Env.current (e : Env) : Option CatalogEntry := e.catalog[e.selectedIndex]?

/-- The slot index behind `currentSlotAddress()`: none if no program is selected or the catalog assigns no slot to
the selection (R225). -/
def currentSlot (c : Config) (e : Env) : Option Nat :=
  match e.current with
  | none => none
  | some _ => (c.slotOf[e.selectedIndex]?).join

/-- `currentSlotAddress()`; none is "no slot" (R225). -/
def currentSlotAddress (c : Config) (e : Env) : Option Nat := (currentSlot c e).map (slotAddr c)

/-- `load()` (R228): copy the slot into the save region and clear the dirty flag; with no slot, nothing. -/
def loadSave (c : Config) (e : Env) : Env :=
  match currentSlotAddress c e with
  | none => e
  | some a => { e.saveWrite 0 (e.nvRead a c.slotSize) with dirty := false }

/-- `next()` (R232): no-op in single-image mode or on an empty catalog. -/
def catalogNext (e : Env) : Env :=
  if e.mode = .singleImage ∨ e.catalog = [] then e
  else { e with selectedIndex := (e.selectedIndex + 1) % e.catalog.length }

/-- `prev()` (R232): retreat with wraparound, from 0 to the last entry. -/
def catalogPrev (e : Env) : Env :=
  if e.mode = .singleImage ∨ e.catalog = [] then e
  else { e with selectedIndex := (e.selectedIndex + (e.catalog.length - 1)) % e.catalog.length }

/-- The storage at an address begins with the image magic signature (R230, log 13). -/
def magicAt (c : Config) (e : Env) (a : Nat) : Bool := e.nvRead a c.magic.length == c.magic

/-- What `init(base)` finds in the storage (R230): one entry if the header matches the signature, else the entries the
archive parser yields that begin with the signature. The single image's size and name are free values (log 12). -/
def parseCatalog (c : Config) (base : Nat) (e : Env) : CatalogMode × List CatalogEntry :=
  if magicAt c e base then
    (.singleImage, [{ start := base, size := Config.singleImageSize base, name := Config.singleImageName base }])
  else (.multiImage, (Config.parseArchive e.nvByte base).filter (fun x => magicAt c e x.start))

/-- `init(base)` (R230): parse the catalog, once; a parsed catalog is immutable (R223), so a later `init` changes nothing
(log 23). The selection starts at 0 and only `next()` and `prev()` move it (R223), so `init` leaves it alone. -/
def catalogInit (c : Config) (base : Nat) (e : Env) : Env :=
  if e.parsed = true then e
  else { e with parsed := true, mode := (parseCatalog c base e).1, catalog := (parseCatalog c base e).2 }

end Sys2Proof.Machine
end

