-- ==== Sys2Proof/Machine/Xfo.lean ====
section
/-! DEFINITION. Unit XFO, the flash-operation handshake arbiter: R155 to R163. -/

namespace Sys2Proof.Machine

/-- `XFO.REQUEST` (R155): idle to requested. -/
def execXfoRequest (s : State) : Result :=
  if s.xfo.req = true ∨ s.xfo.ack = true then raise .xfoProtocolA s
  else done 0 (s.setXfo { s.xfo with req := true })

/-- `XFO.WAITACK` (R156): a poll without bound. -/
def execXfoWaitack (s : State) : Result :=
  if s.xfo.req = false then raise .xfoProtocolA s
  else if s.xfo.ack = false then retry s
  else done 1 s

/-- `XFO.EXEC` (R157): only in the grant; performs `FlashOp(wdata)` on the environment (R226), which is refused for a
slot that does not exist (U15, log 10). -/
def execXfoExec (s : State) : Result :=
  if s.xfo.req = false ∨ s.xfo.ack = false then raise .xfoProtocolA s
  else if s.wdata.toNat ≥ s.cfg.numSlots then .refused .flashSlotUndefined
  else done 0 (s.setEnv (flashSlot s.cfg s.wdata.toNat s.env))

/-- `XFO.RELEASE` (R158): grant to releasing. -/
def execXfoRelease (s : State) : Result :=
  if s.xfo.req = false ∨ s.xfo.ack = false then raise .xfoProtocolA s
  else done 0 (s.setXfo { s.xfo with req := false })

/-- `XFO.WAITRESUME` (R159): a poll without bound; OK at once when idle. -/
def execXfoWaitresume (s : State) : Result :=
  if s.xfo.req = true then raise .xfoProtocolA s
  else if s.xfo.ack = true then retry s
  else done 0 s

/-- `XFO.STATUS` on port A (R160). -/
def execXfoStatusA (s : State) : Result := done (xfoStatusWord s.xfo) s

/-- `XFO.STATUS` on port B (R160). -/
def execXfoStatusB (s : State) : Result := done (xfoStatusWord s.xfo) s

/-- `XFO.ISEXIST` (R161): legal in every display state. -/
def execXfoIsexist (s : State) : Result := done (flagData s.xfo.req) s

/-- `XFO.ACK` (R162): requested to grant, Streaming to ParkedForFlash. -/
def execXfoAck (s : State) : Result :=
  if s.fsg.dstate ≠ .streaming then raise .xfoProtocolB s
  else if s.xfo.req = false then raise .xfoAckWithoutRequest s
  else done 0 ((s.setXfo { s.xfo with ack := true }).setFsg { s.fsg with dstate := .parkedForFlash })

/-- `XFO.RESUME` (R163): RETRY while the request stands; then releasing to idle, back to Streaming whatever the lock. -/
def execXfoResume (s : State) : Result :=
  if s.fsg.dstate ≠ .parkedForFlash then raise .xfoProtocolB s
  else if s.xfo.req = true then retry s
  else done 0 ((s.setXfo { s.xfo with ack := false }).setFsg { s.fsg with dstate := .streaming })

end Sys2Proof.Machine
end

