-- ==== Sys2Proof/Machine/Dispatch.lean ====
section
/-! DEFINITION. The meaning of every command, one arm per row of the opcode table (R93 step 4, R95). -/

namespace Sys2Proof.Machine

def exec (i : Instr) (s : State) : Host.Outcome State Fault Refusal :=
  match i with
  | .lbxAcquire => Sys2Proof.Machine.execLbxAcquire s
  | .lbxWpix idx => Sys2Proof.Machine.execLbxWpix idx s
  | .lbxPublish => Sys2Proof.Machine.execLbxPublish s
  | .lbxStatusA => Sys2Proof.Machine.execLbxStatusA s
  | .arbWsize => Sys2Proof.Machine.execArbWsize s
  | .arbWptr => Sys2Proof.Machine.execArbWptr s
  | .arbWsamp idx => Sys2Proof.Machine.execArbWsamp idx s
  | .arbAdvw => Sys2Proof.Machine.execArbAdvw s
  | .arbWave idx => Sys2Proof.Machine.execArbWave idx s
  | .arbMixw idx => Sys2Proof.Machine.execArbMixw idx s
  | .xfoRequest => Sys2Proof.Machine.execXfoRequest s
  | .xfoWaitack => Sys2Proof.Machine.execXfoWaitack s
  | .xfoExec => Sys2Proof.Machine.execXfoExec s
  | .xfoRelease => Sys2Proof.Machine.execXfoRelease s
  | .xfoWaitresume => Sys2Proof.Machine.execXfoWaitresume s
  | .xfoStatusA => Sys2Proof.Machine.execXfoStatusA s
  | .padCur idx => Sys2Proof.Machine.execPadCur idx s
  | .padPushed => Sys2Proof.Machine.execPadPushed s
  | .padRaw idx => Sys2Proof.Machine.execPadRaw idx s
  | .fsgFrame => Sys2Proof.Machine.execFsgFrame s
  | .fsgGest => Sys2Proof.Machine.execFsgGest s
  | .fsgSys => Sys2Proof.Machine.execFsgSys s
  | .fsgDstateA => Sys2Proof.Machine.execFsgDstateA s
  | .ctlFaultA => Sys2Proof.Machine.execCtlFaultA s
  | .lbxPoll => Sys2Proof.Machine.execLbxPoll s
  | .lbxRpix idx => Sys2Proof.Machine.execLbxRpix idx s
  | .lbxReturn => Sys2Proof.Machine.execLbxReturn s
  | .lbxStatusB => Sys2Proof.Machine.execLbxStatusB s
  | .arbRsize => Sys2Proof.Machine.execArbRsize s
  | .arbRptr => Sys2Proof.Machine.execArbRptr s
  | .arbRsamp idx => Sys2Proof.Machine.execArbRsamp idx s
  | .arbAdvr => Sys2Proof.Machine.execArbAdvr s
  | .xfoIsexist => Sys2Proof.Machine.execXfoIsexist s
  | .xfoAck => Sys2Proof.Machine.execXfoAck s
  | .xfoResume => Sys2Proof.Machine.execXfoResume s
  | .xfoStatusB => Sys2Proof.Machine.execXfoStatusB s
  | .fsgDsync => Sys2Proof.Machine.execFsgDsync s
  | .fsgDstateB => Sys2Proof.Machine.execFsgDstateB s
  | .ctlFaultB => Sys2Proof.Machine.execCtlFaultB s
  | .padReport idx => Sys2Proof.Machine.execPadReport idx s
  | .padDetach idx => Sys2Proof.Machine.execPadDetach idx s
  | .fsgLock => Sys2Proof.Machine.execFsgLock s
  | .ctlFaultX => Sys2Proof.Machine.execCtlFaultX s

end Sys2Proof.Machine
end

