-- ==== Sys2Proof/Machine/Transaction.lean ====
section
/-! DEFINITION. One transaction on one port: the dispatch of R93, the same for every command. -/

namespace Sys2Proof.Machine

/-- R93 steps 2 to 4, once the command is known not to be the port's own `CTL.FAULT` word. -/
def dispatchLive (p : Port) (cmd : Word) (s : State) : Result :=
  if s.ctlFault ≠ 0 then dead s
  else
    match decode cmd with
    | .error _ => raise .illegalCmd s
    | .ok i => if i.port = p then exec i s else raise .illegalCmd s

/-- The command word `cmd` with data word `wdata` arrives on port `p` and is served (R90, R93). -/
def serve (p : Port) (cmd wdata : Word) (s : State) : Result :=
  if cmd = encode (ctlFaultOf p) then exec (ctlFaultOf p) (s.present p wdata)
  else dispatchLive p cmd (s.present p wdata)

/-- The port a word names in its PORT field; a reserved value names none, and the word is then taken to arrive on
port A, where it is illegal (R96). -/
def portOfWord (w : Word) : Port :=
  match (fieldsOf w).port.toNat with
  | 1 => .b
  | 2 => .x
  | _ => .a

end Sys2Proof.Machine
end

