-- ==== Sys2Proof/Machine/Client.lean ====
section
/-! DEFINITION. The clients: the document's composite operations as fixed sequences of commands and polls (R99), run
one command at a time by the emulation core and the display core; and what each input from outside does (log 7, log 14). -/

namespace Sys2Proof.Machine

/-! ## Composite operations of the emulation core (port A) -/

/-- `setProcAndWait(FlashOp(k))` (R164): set, wait for the acknowledgment, execute, clear, wait for the resume. The slot
number goes out as the 32-bit data word of `XFO.EXEC`; for `k >= 2^32`, where the spec is silent, its low 32 bits go out,
and `save()` (R227) then writes that slot and clears `dirty`. DESIGN CHOICE (log 21). -/
def setProcAndWait (k : Nat) : List EmuJob :=
  [.issue .xfoRequest 0, .untilOk .xfoWaitack 0, .issue .xfoExec (dataOf k), .issue .xfoRelease 0,
   .untilOk .xfoWaitresume 0]

/-- What `save()` goes on to do (R227): nothing if the region is clean or no slot is addressable, else the flash
rendezvous and then `dirty <- 0`. -/
def saveTasks (c : Config) (e : Env) : List EmuTask :=
  if e.dirty = false then []
  else
    match currentSlot c e with
    | none => []
    | some k => (setProcAndWait k).map .job ++ [.clearDirty]

/-- The menu actions for a gesture report, in the order PREV, NEXT, SAVE_RESET (R207, R240). -/
def menuJobs (g : Word) : List EmuJob :=
  (if g.getLsbD 0 then [.save, .catalogPrev, .load, .resetEmulation] else []) ++
  (if g.getLsbD 1 then [.save, .catalogNext, .load, .resetEmulation] else []) ++
  (if g.getLsbD 2 then [.save, .load, .resetEmulation] else [])

/-- Fill the acquired buffer and publish it (R99, R207). -/
def fillAndPublish (pixels : List (Nat × Word)) (buffer : Word) : List EmuJob :=
  pixels.map (fun p => .issue (.lbxWpix p.1) p.2) ++ [.untilOk .lbxPublish buffer]

/-- A write through `writePointer()` at an offset from it: a sample pair of the client's, or the mix (R99). -/
inductive PointerWrite where
  | pair (offset : Nat) (samples : Word)
  | mixed (offset : Nat)
deriving DecidableEq, Repr

/-- The command of one write through `writePointer()` (R99). -/
def PointerWrite.job : PointerWrite → EmuJob
  | .pair offset samples => .issue (.arbWsamp offset) samples
  | .mixed offset => .issue (.arbMixw offset) 0

/-- `writePointer()` (R99): `ARB.WPTR`, then `ARB.WSAMP i` or `ARB.MIXW i` relative to it. -/
def writePointer (writes : List PointerWrite) : List EmuJob := .issue .arbWptr 0 :: writes.map PointerWrite.job

/-- Load the five channels and mix at offset `j` (R142). -/
def mixOne (j : Nat) (w : Channels) : List EmuJob :=
  [.issue (.arbWave 1) w.c1, .issue (.arbWave 2) w.c2, .issue (.arbWave 3) w.c3, .issue (.arbWave 4) w.c4,
   .issue (.arbWave 5) w.c5, .issue (.arbMixw j) 0]

/-- Mix a run of samples at offsets `j`, `j + 1`, … (R142). -/
def mixRun (j : Nat) : List Channels → List EmuJob
  | [] => []
  | w :: ws => mixOne j w ++ mixRun (j + 1) ws

/-- The producer's loop after `ARB.WSIZE` answered `room` (R142): write what fits, advance, go on with the rest; with
no room, stop here and resume later from the same sample. -/
def audioJobs (samples : List Channels) (room : Nat) : List EmuJob :=
  let n := min samples.length room
  if n = 0 then [.audio samples]
  else mixRun 0 (samples.take n) ++ [.issue .arbAdvw (dataOf n), .audio (samples.drop n)]

/-- What the external emulator does in one frame (R207). -/
def workJob : Work → EmuJob
  | .scanline pixels => .scanline pixels
  | .audio samples => .audio samples

/-- The emulation core's part of the bring-up (R282): `init(NV_BASE)`, `load()`, then the frames. -/
def bringUpEmu (c : Config) (frames : List (List Work)) : List EmuJob :=
  [.catalogInit c.nvBase, .load] ++ frames.map .frame

/-- The display core's part of the bring-up (R282): the DisplayEngine loop from its top. -/
def bringUpDisp (wanted : List Nat) (most : Nat) : List DispTask := [.loop wanted most]

/-- The command the emulation core issues for a job, if the job begins with one. -/
def EmuJob.command : EmuJob → Option (Instr × Word)
  | .issue i d => some (i, d)
  | .untilOk i d => some (i, d)
  | .scanline _ => some (.lbxAcquire, 0)
  | .audio [] => none
  | .audio (_ :: _) => some (.arbWsize, 0)
  | .frame _ => some (.fsgFrame, 0)
  | .save | .load | .catalogNext | .catalogPrev | .catalogInit _ | .resetEmulation => none

/-- The command the emulation core issues for a task, if the task issues one. -/
def EmuTask.command : EmuTask → Option (Instr × Word)
  | .job j => j.command
  | .gestureThen _ => some (.fsgGest, 0)
  | .clearDirty => none

/-- What is left of a job once its command is answered OK or RETRY. -/
def EmuJob.after (j : EmuJob) (a : Answer) : List EmuTask :=
  match j with
  | .untilOk i d => if a.status = .retry then [.job (.untilOk i d)] else []
  | .scanline pixels => (fillAndPublish pixels a.rdata).map .job
  | .audio samples => (audioJobs samples a.rdata.toNat).map .job
  | .frame work =>
    [.job (.issue (.padCur 0) 0), .job (.issue (.padCur 1) 0), .job (.issue .fsgSys 0), .gestureThen work]
  | .issue _ _ | .save | .load | .catalogNext | .catalogPrev | .catalogInit _ | .resetEmulation => []

/-- What is left of a task once its command is answered OK or RETRY. -/
def EmuTask.after (t : EmuTask) (a : Answer) : List EmuTask :=
  match t with
  | .job j => j.after a
  | .gestureThen work => (if a.rdata ≠ 0 then menuJobs a.rdata else work.map workJob).map .job
  | .clearDirty => []

/-- A task of the emulation core that issues no command: `save()`'s test, `load()`, the catalog (R227 to R232). A
catalog that ends up empty leaves the system idle: the remaining tasks are dropped (R230, R282, log 16). -/
def emuLocal (t : EmuTask) (rest : List EmuTask) (s : State) : State :=
  match t with
  | .job .save => { s with emu := saveTasks s.cfg s.env ++ rest }
  | .clearDirty => { s with env := { s.env with dirty := false }, emu := rest }
  | .job .load => { s with env := loadSave s.cfg s.env, emu := rest }
  | .job .catalogNext => { s with env := catalogNext s.env, emu := rest }
  | .job .catalogPrev => { s with env := catalogPrev s.env, emu := rest }
  | .job (.catalogInit base) =>
    { s with
      env := catalogInit s.cfg base s.env
      emu := if (catalogInit s.cfg base s.env).catalog = [] then [] else rest }
  | .job (.issue _ _) | .job (.untilOk _ _) | .job (.scanline _) | .job (.audio _) | .job (.frame _)
  | .job .resetEmulation | .gestureThen _ => { s with emu := rest }

/-! ## Composite operations of the display core (port B) -/

/-- Acknowledge, then wait in the park until the request is cleared (R165). -/
def parkTasks : List DispTask := [.issue .xfoAck 0, .untilOk .xfoResume 0]

/-- Read the wanted pixels of the in-flight line and return it (R206). -/
def lineTasks (wanted : List Nat) : List DispTask :=
  wanted.map (fun i => .issue (.lbxRpix i) 0) ++ [.issue .lbxReturn 0]

/-- "Consume one line" (R99): look for the in-flight buffer until there is one, read the wanted pixels, return it. The
loop of R206 polls once a turn instead. -/
def consumeLine (wanted : List Nat) : List DispTask := .untilOk .lbxPoll 0 :: lineTasks wanted

/-- `readPointer()` (R99): `ARB.RPTR`, then `ARB.RSAMP i` relative to it. -/
def readPointer (offsets : List Nat) : List DispTask :=
  .issue .arbRptr 0 :: offsets.map (fun i => .issue (.arbRsamp i) 0)

/-- The consumer's procedure after `ARB.RSIZE` answered `r` (R143): with `r = 0` nothing, else read `m` pairs and advance
by `m`. R143 says "for some `m <= r`" and so allows `m = 0`, which reads nothing and issues `ARB.ADVR , 0`. The model takes
`m = min most r`, with one `most` for every turn of a loop. DESIGN CHOICE (log 22). -/
def consumeTasks (most r : Nat) : List DispTask :=
  if r = 0 then []
  else
    let m := min most r
    (List.range m).map (fun j => .issue (.arbRsamp j) 0) ++ [.issue .arbAdvr (dataOf m)]

/-- The command the display core issues for a task, if the task issues one. -/
def DispTask.command : DispTask → Option (Instr × Word)
  | .issue i d => some (i, d)
  | .untilOk i d => some (i, d)
  | .processOrWaitIfExist => some (.xfoIsexist, 0)
  | .audio _ => some (.arbRsize, 0)
  | .loop _ _ => none
  | .turn _ _ => some (.fsgDsync, 0)
  | .turnRequest _ _ => some (.xfoIsexist, 0)
  | .turnLine _ _ => some (.lbxPoll, 0)

/-- What is left of a task once its command is answered OK or RETRY (R143, R165, R206). -/
def DispTask.after (t : DispTask) (a : Answer) : List DispTask :=
  match t with
  | .issue _ _ => []
  | .untilOk _ _ => if a.status = .retry then [t] else []
  | .processOrWaitIfExist => if a.rdata = 1 then parkTasks else []
  | .audio most => consumeTasks most a.rdata.toNat
  | .loop wanted most => [.untilOk .fsgDsync 0, .turn wanted most]
  | .turn wanted most => if a.status = .retry then [.loop wanted most] else [.turnRequest wanted most]
  | .turnRequest wanted most =>
    if a.rdata = 1 then parkTasks ++ [.turn wanted most] else [.turnLine wanted most]
  | .turnLine wanted most =>
    (if a.status = .retry then [] else lineTasks wanted) ++ [.audio most, .turn wanted most]

/-- A task of the display core that issues no command: the top of its loop (R206). -/
def dispLocal (t : DispTask) (rest : List DispTask) (s : State) : State :=
  match t with
  | .loop wanted most => { s with disp := [.untilOk .fsgDsync 0, .turn wanted most] ++ rest }
  | .issue _ _ | .untilOk _ _ | .processOrWaitIfExist | .audio _ | .turn _ _ | .turnRequest _ _
  | .turnLine _ _ => { s with disp := rest }

/-! ## One move of a client, and every input -/

/-- What the emulation core has left to do once its command is answered: a FAULT ends the whole procedure (R99). -/
def emuAnswered (t : EmuTask) (rest : List EmuTask) (s : State) : State :=
  match s.answer with
  | none => { s with emu := rest }
  | some a => { s with emu := if a.status = .fault then [] else t.after a ++ rest }

/-- What the display core has left to do once its command is answered: a FAULT ends the whole procedure (R99). -/
def dispAnswered (t : DispTask) (rest : List DispTask) (s : State) : State :=
  match s.answer with
  | none => { s with disp := rest }
  | some a => { s with disp := if a.status = .fault then [] else t.after a ++ rest }

/-- Go on with a next state; a stop stays a stop. -/
def Result.andThen (r : Result) (f : State → State) : Result :=
  match r with
  | .next s => .next (f s)
  | .fault e => .fault e
  | .refused e => .refused e

/-- The emulation core makes its next move: one command on port A, or one step of its own software. The command goes
out as `encode` writes it: of an operand of 65536 or more, the low 16 bits. DESIGN CHOICE (log 24). -/
def runEmu (s : State) : Result :=
  match s.emu with
  | [] => .next s
  | t :: rest =>
    match t.command with
    | some (i, d) => Result.andThen (serve .a (encode i) d s) (emuAnswered t rest)
    | none => .next (emuLocal t rest s)

/-- The display core makes its next move: one command on port B, or the top of its loop. The command goes out as
`encode` writes it: of an operand of 65536 or more, the low 16 bits. DESIGN CHOICE (log 24). -/
def runDisp (s : State) : Result :=
  match s.disp with
  | [] => .next s
  | t :: rest =>
    match t.command with
    | some (i, d) => Result.andThen (serve .b (encode i) d s) (dispAnswered t rest)
    | none => .next (dispLocal t rest s)

/-- The external emulator writes the save region; only its SLOT_SIZE bytes exist (R221, log 11). -/
def emulatorWrite (off : Nat) (bytes : List Byte) (s : State) : Result :=
  if off + bytes.length ≤ s.cfg.slotSize then .next { s with env := s.env.saveWrite off bytes }
  else .fault .saveRegionRange

/-- What one input does to the machine. -/
def handleInput (inp : Input) (s : State) : Result :=
  match inp with
  | .command p cmd wdata => serve p cmd wdata s
  | .reset => .next s.resetBlock
  | .saveWrite off bytes => emulatorWrite off bytes s
  | .markDirty => .next { s with env := { s.env with dirty := true } }
  | .emuWork jobs => .next { s with emu := s.emu ++ jobs.map .job }
  | .dispWork tasks => .next { s with disp := s.disp ++ tasks }
  | .runEmu => runEmu s
  | .runDisp => runDisp s

/-- The machine takes its next input; the block is passive and has no step of its own (R5, R22), so with no input
nothing changes. An ill-formed configuration has no behaviour (R8). -/
def stepInput (s : State) : Result :=
  if s.cfg.WellFormed then
    match s.queue with
    | [] => .next s
    | inp :: rest => handleInput inp { s with queue := rest }
  else .refused .illFormedConfig

/-- The input that presents a command word on its own port, with the data word now on the data lines. -/
def fetchInput (nbits w : Nat) (s : State) : Input :=
  .command (portOfWord (BitVec.ofNat 32 (w % 2 ^ nbits))) (BitVec.ofNat 32 (w % 2 ^ nbits)) s.wdata

end Sys2Proof.Machine
end

