-- ==== Sys2Proof/Machine/Step.lean ====
section
/-! DEFINITION. One step of the machine: the next input in the one total order of R71. -/

namespace Sys2Proof.Machine

/-- One step. -/
def step (s : State) : Host.Outcome State Fault Refusal := stepInput s

/-- The state whose next step serves exactly the command word `w`: it stands first among the inputs, on its own
port (log 7). -/
def State.withFetchWord (s : State) (nbits w : Nat) : State :=
  { s with queue := fetchInput nbits w s :: s.queue }

end Sys2Proof.Machine
end

