-- ==== Sys2Proof/Safety.lean ====
section
/-! DEFINITION. What claims about the machine are stated in: the invariants the spec gives the state, one state
predicate per rule, and the states a faulting and a waiting command leave. -/

namespace Sys2Proof.Machine

/-! ## The invariants of the spec -/

/-- R27: a buffer in flight is not the fill target. -/
abbrev LbxInv (s : State) : Prop := s.lbx.fltValid = true → s.lbx.fltSel ≠ s.lbx.fillSel

/-- R26: only visible pixels were ever written in a line buffer, each of PIXEL_W bits. -/
abbrev LineInv (c : Config) (m : Store Word) : Prop :=
  ∀ e ∈ m, c.marginL ≤ e.1 ∧ e.1 < c.marginL + c.visW ∧ e.2.toNat < 2 ^ c.pixelW

/-- R28, R29, R30: both cursors count modulo `2*RING_N`, and at most RING_N pairs are unread. -/
abbrev RingInv (s : State) : Prop :=
  s.arb.wr < 2 * s.cfg.ringN ∧ s.arb.rd < 2 * s.cfg.ringN ∧ unread s.cfg s.arb ≤ s.cfg.ringN

/-- R31: only ring positions were ever written. -/
abbrev SampInv (s : State) : Prop := ∀ e ∈ s.arb.samp, e.1 < s.cfg.ringN

/-- R32: each mixer input has WAVE_W bits. -/
abbrev WaveInv (s : State) : Prop :=
  s.arb.wave.w1.toNat < 2 ^ s.cfg.waveW ∧ s.arb.wave.w2.toNat < 2 ^ s.cfg.waveW ∧
  s.arb.wave.w3.toNat < 2 ^ s.cfg.waveW ∧ s.arb.wave.w4.toNat < 2 ^ s.cfg.waveW ∧
  s.arb.wave.w5.toNat < 2 ^ s.cfg.waveW

/-- R42: the acknowledge flag is 1 exactly while the display core is parked. -/
abbrev ParkInv (s : State) : Prop := s.xfo.ack = true ↔ s.fsg.dstate = .parkedForFlash

/-- R252: codes above 0x0D are never produced. -/
abbrev FaultInv (s : State) : Prop := s.ctlFault.toNat ≤ 0x0D

/-- All eight native masks together (R180). -/
def Config.allMasks (c : Config) : Word :=
  c.mA ||| c.mB ||| c.mSelect ||| c.mStart ||| c.mUp ||| c.mDown ||| c.mLeft ||| c.mRight

/-- R39, R180: the previous-frame snapshot is player 1's current snapshot between ticks, and no snapshot has a bit
outside the eight masks. -/
abbrev PadInv (s : State) : Prop :=
  s.pad.prev = s.pad.cur0 ∧ s.pad.cur0 &&& ~~~(Config.allMasks s.cfg) = 0 ∧
  s.pad.cur1 &&& ~~~(Config.allMasks s.cfg) = 0

/-- R41, R182: the system bit says whether a gesture fired, and PREV and NEXT never fire together. -/
abbrev GestInv (s : State) : Prop :=
  (s.fsg.sys = true ↔ s.fsg.gest ≠ 0) ∧ ¬(s.fsg.gest.getLsbD 0 = true ∧ s.fsg.gest.getLsbD 1 = true)

/-- R221, R223, R232: the save region has SLOT_SIZE bytes; the selection is an entry of the catalog, and 0 on an
empty catalog or in single-image mode. The last clause, that before `init` there is no catalog, is the model's own
choice and no rule's (DESIGN CHOICE, log 5; the field `parsed`: log 23). -/
abbrev EnvInv (s : State) : Prop :=
  (∀ e ∈ s.env.save, e.1 < s.cfg.slotSize) ∧
  (s.env.catalog ≠ [] → s.env.selectedIndex < s.env.catalog.length) ∧
  (s.env.catalog = [] ∨ s.env.mode = .singleImage → s.env.selectedIndex = 0) ∧
  (s.env.parsed = false → s.env.catalog = [])

/-- Everything the spec says is true after reset and kept by every command; and, the model's own, that there is no
catalog before `init` (log 5, log 23) and that the sparse stores keep their canonical form. -/
structure State.Inv (s : State) : Prop where
  lbx : LbxInv s
  line0 : LineInv s.cfg s.lbx.pix0
  line1 : LineInv s.cfg s.lbx.pix1
  ring : RingInv s
  samp : SampInv s
  wave : WaveInv s
  park : ParkInv s
  fault : FaultInv s
  pad : PadInv s
  gest : GestInv s
  env : EnvInv s
  memory : Memory.wf s

/-! ## The shapes of a command's end -/

/-- `s` after a command that changed nothing and answered `(st, d)` on its port. -/
def State.answered (s : State) (st : Status) (d : Word) : State :=
  { s with answer := some { port := s.port, status := st, rdata := d } }

/-- `s` after the first fault, with the given cause code: the code is recorded, the answer is `(FAULT, code)`, and
nothing else is written (R251). -/
def State.faulted (s : State) (code : BitVec 8) : State :=
  { s with
    ctlFault := code
    answer := some { port := s.port, status := .fault, rdata := code.setWidth 32 } }

/-- The `CTL.FAULT` word of each port, as R255 writes it. -/
def ctlWord : Port → Word
  | .a => 0x0F000000
  | .b => 0x1F000000
  | .x => 0x2F000000

/-- The commands that R66 says return data and change nothing. -/
def isPureRead : Instr → Bool
  | .lbxStatusA | .lbxStatusB | .lbxPoll | .lbxRpix _ | .arbWsize | .arbWptr | .arbRsize | .arbRptr
  | .arbRsamp _ | .xfoWaitack | .xfoWaitresume | .xfoStatusA | .xfoStatusB | .xfoIsexist | .padCur _
  | .padPushed | .padRaw _ | .fsgGest | .fsgSys | .fsgDstateA | .fsgDstateB | .ctlFaultA | .ctlFaultB
  | .ctlFaultX => true
  | .lbxAcquire | .lbxWpix _ | .lbxPublish | .arbWsamp _ | .arbAdvw | .arbWave _ | .arbMixw _ | .xfoRequest
  | .xfoExec | .xfoRelease | .fsgFrame | .lbxReturn | .arbAdvr | .xfoAck | .xfoResume | .fsgDsync
  | .padReport _ | .padDetach _ | .fsgLock => false

/-- The state a command is served in: it is taken from the inputs, and its port and data word are on the lines. -/
def State.serving (s : State) (p : Port) (d : Word) (rest : List Input) : State :=
  { s with port := p, wdata := d, queue := rest }

/-- The next input is the reset input. -/
def State.resetNext (s : State) : Bool :=
  match s.queue with
  | .reset :: _ => true
  | _ => false

/-- The block's registers and stores (R22) are the same in two states. -/
abbrev SameBlock (s t : State) : Prop :=
  t.lbx = s.lbx ∧ t.arb = s.arb ∧ t.xfo = s.xfo ∧ t.pad = s.pad ∧ t.fsg = s.fsg ∧ t.ctlFault = s.ctlFault

end Sys2Proof.Machine
end

