-- ==== Sys2Proof/Certificates/Slice0/Obligations.lean ====
section
/-! DEFINITION. The statements for the provers. Each docstring names the rules of the spec the statement formalises.
`State.answered` and `State.faulted` (Safety.lean) are the states that only gained an answer, or only the first fault
and its answer; a record update says what else a command writes, and by that what it leaves unchanged. Cause codes and
command words are written as numbers, as the spec's tables write them. -/

open Sys2Proof Sys2Proof.Machine

/-! ## Encoding (R91 to R97) -/

/-- Decoding the word of a well-formed command gives the command back, for every operand IDX admits (R91, R95). -/
def Obligations.DecodeEncodeRoundTrip : Prop :=
  ∀ i : Instr, i.wf = true → decode (encode i) = .ok i

/-- Every word that decodes is the word of the command it decodes to, which is well-formed: no bit of a word is
dropped (R94, R96). -/
def Obligations.EncodeDecodeRoundTrip : Prop :=
  ∀ (w : Word) (i : Instr), decode w = .ok i → i.wf = true ∧ encode i = w

/-- The decoder accepts exactly the words that match a row of the opcode map under the row's mask, each for the row's
port, and no word matches two rows (R93 step 3, R95, R96). -/
def Obligations.DecoderAcceptsExactlyTheTable : Prop :=
  (∀ (w : Word) (p : Port),
    (∃ i, decode w = .ok i ∧ i.port = p) ↔ ∃ r ∈ opcodeTable, r.Matches w ∧ r.port = p) ∧
  (∀ (w : Word), ∀ r ∈ opcodeTable, ∀ r' ∈ opcodeTable, r.Matches w → r'.Matches w → r = r')

/-- A few words of the spec's own tables decode to the commands they stand for (R95, R98). -/
def Obligations.SpecWordsDecode : Prop :=
  decode 0x00010005 = .ok (.lbxWpix 5) ∧ decode 0x1001013F = .ok (.lbxRpix 319) ∧
  decode 0x01050003 = .ok (.arbMixw 3) ∧ decode 0x11030000 = .ok .arbAdvr ∧
  decode 0x02020000 = .ok .xfoExec ∧ decode 0x12020000 = .ok .xfoResume ∧
  decode 0x23000001 = .ok (.padReport 1) ∧ decode 0x04000000 = .ok .fsgFrame ∧
  decode 0x2F000000 = .ok .ctlFaultX ∧ decode 0x24000001 = .error .nonzeroIdx ∧
  decode 0x05000000 = .error .reservedUnit ∧ decode 0x30000000 = .error .reservedPort ∧
  decode 0x12030000 = .error .unlistedFn

/-! ## Dispatch and faults (R93, R251 to R255) -/

/-- When the next input presents a word that decodes to a command of the port it arrives on, and the block is live, the
step is `exec` of that command with the input taken and its port and data word on the lines (R71, R90, R93 step 4; that
the inputs are a list of the state is the model's choice, log 7). -/
def Obligations.StepRunsTheDecodedCommand : Prop :=
  ∀ (s : State) (p : Port) (w d : Word) (rest : List Input) (i : Instr),
    s.cfg.WellFormed → s.queue = .command p w d :: rest → decode w = .ok i → i.port = p → s.ctlFault = 0 →
    step s = exec i (s.serving p d rest)

/-- The four steps of dispatch, in their order (R93): the port's own `CTL.FAULT` word; a dead block; a word of another
port or of no row; the rule of the row. -/
def Obligations.DispatchTakesItsFourStepsInOrder : Prop :=
  ∀ (s : State) (p : Port) (w d : Word) (rest : List Input),
    s.cfg.WellFormed → s.queue = .command p w d :: rest →
    (w = ctlWord p → step s = .next ((s.serving p d rest).answered .ok (s.ctlFault.setWidth 32))) ∧
    (w ≠ ctlWord p → s.ctlFault ≠ 0 →
      step s = .next ((s.serving p d rest).answered .fault (s.ctlFault.setWidth 32))) ∧
    (w ≠ ctlWord p → s.ctlFault = 0 → (∀ r ∈ opcodeTable, r.Matches w → r.port ≠ p) →
      step s = .next ((s.serving p d rest).faulted 0x0C)) ∧
    (w ≠ ctlWord p → s.ctlFault = 0 → ∀ i, decode w = .ok i → i.port = p →
      step s = exec i (s.serving p d rest))

/-- `CTL.FAULT` on every port answers OK with the fault register, dead or live, and changes nothing (R255). -/
def Obligations.CtlFaultReadsTheFaultRegister : Prop :=
  decode 0x0F000000 = .ok .ctlFaultA ∧ decode 0x1F000000 = .ok .ctlFaultB ∧ decode 0x2F000000 = .ok .ctlFaultX ∧
  ∀ s : State,
    exec .ctlFaultA s = .next (s.answered .ok (s.ctlFault.setWidth 32)) ∧
    exec .ctlFaultB s = .next (s.answered .ok (s.ctlFault.setWidth 32)) ∧
    exec .ctlFaultX s = .next (s.answered .ok (s.ctlFault.setWidth 32))

/-- Faults are precise: a command that faults a live block does nothing but record one of the thirteen codes and
answer (FAULT, code) (R251, R252). -/
def Obligations.AFaultingCommandDoesNothingElse : Prop :=
  ∀ (i : Instr) (s t : State), s.ctlFault = 0 → exec i s = .next t → t.ctlFault ≠ 0 →
    t = s.faulted t.ctlFault ∧ t.ctlFault.toNat ≤ 0x0D

/-- A dead block stays as it is: until the reset input, no step changes any register or store of the block, the fault
register included, whatever the ports, the clients and the emulator do (R251, R254). -/
def Obligations.DeadBlockNeverChanges : Prop :=
  ∀ s t : State, s.ctlFault ≠ 0 → s.resetNext = false → step s = .next t → SameBlock s t

/-- An ill-formed configuration has no behaviour (R8). Three of the constraints are
the model's (log 9, DEDUCED from R7, R64 and R225): every save slot lies in the storage, the header is long enough for
the signature, and `slotOf` answers numbers below NUM_SLOTS. -/
def Obligations.IllFormedConfigurationIsRefused : Prop :=
  ∀ s : State, ¬ s.cfg.WellFormed → step s = .refused .illFormedConfig

/-! ## Unit LBX (R110 to R117) -/

/-- `LBX.ACQUIRE` (R110): in every state it sets `acq`, answers OK with the number of the fill target, and changes nothing
else; it never waits. -/
def Obligations.AcquireReturnsTheFillTarget : Prop :=
  decode 0x00000000 = .ok .lbxAcquire ∧
  ∀ s : State, exec .lbxAcquire s =
    .next (({ s with lbx := { s.lbx with acq := true } } : State).answered .ok (s.lbx.fillSel.setWidth 32))

/-- `LBX.WPIX` (R111): the ownership fault, then the range fault, then exactly one pixel of the fill target, at
`MARGIN_L + idx`, with the bits of `wdata` above PIXEL_W - 1 ignored; every other pixel reads as before and nothing
else changes but the answer. -/
def Obligations.WpixWritesOnePixelOfTheFillTarget : Prop :=
  (∀ idx, idx < 65536 → decode ((0x0001 : BitVec 16) ++ BitVec.ofNat 16 idx) = .ok (.lbxWpix idx)) ∧
  ∀ (s : State) (idx : Nat),
    (s.ctlFault = 0 → s.lbx.acq = false → exec (.lbxWpix idx) s = .next (s.faulted 0x03)) ∧
    (s.ctlFault = 0 → s.lbx.acq = true → s.cfg.visW ≤ idx → exec (.lbxWpix idx) s = .next (s.faulted 0x0D)) ∧
    (s.lbx.acq = true → idx < s.cfg.visW → ∃ t, exec (.lbxWpix idx) s = .next t ∧
      t.pixel s.lbx.fillSel (s.cfg.marginL + idx) = BitVec.ofNat 32 (s.wdata.toNat % 2 ^ s.cfg.pixelW) ∧
      (∀ b j, ¬(b = s.lbx.fillSel ∧ j = s.cfg.marginL + idx) → t.pixel b j = s.pixel b j) ∧
      t = ({ s with lbx := { s.lbx with pix0 := t.lbx.pix0, pix1 := t.lbx.pix1 } } : State).answered .ok 0)

/-- `LBX.PUBLISH` (R112): its four outcomes in the order of its checks: not acquired (fault 0x01), the wrong buffer
(fault 0x02), a buffer still in flight (RETRY, nothing written), and the hand-over, which writes the four flags only. -/
def Obligations.PublishHandsTheBufferOver : Prop :=
  decode 0x00020000 = .ok .lbxPublish ∧
  ∀ s : State,
    (s.ctlFault = 0 → s.lbx.acq = false → exec .lbxPublish s = .next (s.faulted 0x01)) ∧
    (s.ctlFault = 0 → s.lbx.acq = true → s.wdata.setWidth 1 ≠ s.lbx.fillSel →
      exec .lbxPublish s = .next (s.faulted 0x02)) ∧
    (s.lbx.acq = true → s.wdata.setWidth 1 = s.lbx.fillSel → s.lbx.fltValid = true →
      exec .lbxPublish s = .next (s.answered .retry 0)) ∧
    (s.lbx.acq = true → s.wdata.setWidth 1 = s.lbx.fillSel → s.lbx.fltValid = false →
      exec .lbxPublish s = .next (({ s with lbx := { s.lbx with
        fltValid := true, fltSel := s.lbx.fillSel, fillSel := 1 - s.lbx.fillSel, acq := false } } : State).answered
          .ok 0))

/-- `LBX.STATUS` on both ports (R113), bit by bit: `fill_sel`, `acq`, `flt_valid`, `flt_sel`, and zeros; it changes
nothing, and answers OK in every state. -/
def Obligations.LbxStatusShowsTheOwnerTag : Prop :=
  decode 0x00030000 = .ok .lbxStatusA ∧ decode 0x10030000 = .ok .lbxStatusB ∧
  ∀ s : State, ∃ d : Word,
    exec .lbxStatusA s = .next (s.answered .ok d) ∧ exec .lbxStatusB s = .next (s.answered .ok d) ∧
    d.getLsbD 0 = s.lbx.fillSel.getLsbD 0 ∧ d.getLsbD 1 = s.lbx.acq ∧ d.getLsbD 2 = s.lbx.fltValid ∧
    d.getLsbD 3 = s.lbx.fltSel.getLsbD 0 ∧ ∀ j, 4 ≤ j → d.getLsbD j = false

/-- `LBX.POLL` (R114): a fault outside Streaming, RETRY with nothing in flight, else OK with the number of the in-flight
buffer, which it does not take. -/
def Obligations.PollFindsTheInFlightBuffer : Prop :=
  decode 0x10000000 = .ok .lbxPoll ∧
  ∀ s : State,
    (s.ctlFault = 0 → s.fsg.dstate ≠ .streaming → exec .lbxPoll s = .next (s.faulted 0x05)) ∧
    (s.fsg.dstate = .streaming → s.lbx.fltValid = false → exec .lbxPoll s = .next (s.answered .retry 0)) ∧
    (s.fsg.dstate = .streaming → s.lbx.fltValid = true →
      exec .lbxPoll s = .next (s.answered .ok (s.lbx.fltSel.setWidth 32)))

/-- `LBX.RPIX` (R115): the pixel of the in-flight buffer at the absolute index, and nothing else changes. -/
def Obligations.RpixReadsThePixelInFlight : Prop :=
  (∀ idx, idx < 65536 → decode ((0x1001 : BitVec 16) ++ BitVec.ofNat 16 idx) = .ok (.lbxRpix idx)) ∧
  ∀ (s : State) (idx : Nat),
    (s.ctlFault = 0 → s.fsg.dstate ≠ .streaming → exec (.lbxRpix idx) s = .next (s.faulted 0x05)) ∧
    (s.ctlFault = 0 → s.fsg.dstate = .streaming → s.lbx.fltValid = false →
      exec (.lbxRpix idx) s = .next (s.faulted 0x04)) ∧
    (s.ctlFault = 0 → s.fsg.dstate = .streaming → s.lbx.fltValid = true → s.cfg.lineW ≤ idx →
      exec (.lbxRpix idx) s = .next (s.faulted 0x0D)) ∧
    (s.fsg.dstate = .streaming → s.lbx.fltValid = true → idx < s.cfg.lineW →
      exec (.lbxRpix idx) s = .next (s.answered .ok (s.pixel s.lbx.fltSel idx)))

/-- `LBX.RETURN` (R116): only `flt_valid` is cleared; the pixels stay. -/
def Obligations.ReturnGivesTheBufferBack : Prop :=
  decode 0x10020000 = .ok .lbxReturn ∧
  ∀ s : State,
    (s.ctlFault = 0 → s.fsg.dstate ≠ .streaming → exec .lbxReturn s = .next (s.faulted 0x05)) ∧
    (s.ctlFault = 0 → s.fsg.dstate = .streaming → s.lbx.fltValid = false →
      exec .lbxReturn s = .next (s.faulted 0x04)) ∧
    (s.fsg.dstate = .streaming → s.lbx.fltValid = true →
      exec .lbxReturn s = .next (({ s with lbx := { s.lbx with fltValid := false } } : State).answered .ok 0))

/-- A pixel written at `x`, then published, is read at `MARGIN_L + x` (R111, R112, R115). -/
def Obligations.PublishedPixelIsRead : Prop :=
  ∀ (s : State) (x : Nat), s.cfg.WellFormed → s.lbx.acq = true → s.lbx.fltValid = false →
    s.fsg.dstate = .streaming → x < s.cfg.visW →
    ∃ t u v, exec (.lbxWpix x) s = .next t ∧
      exec .lbxPublish { t with wdata := s.lbx.fillSel.setWidth 32 } = .next u ∧
      exec (.lbxRpix (s.cfg.marginL + x)) u = .next v ∧
      v = u.answered .ok (BitVec.ofNat 32 (s.wdata.toNat % 2 ^ s.cfg.pixelW))

/-- No step but the reset input changes a pixel of the buffer in flight (R27, R117): "a buffer handed to the display
core must not be mutated until it is handed back". -/
def Obligations.InFlightPixelsNeverChange : Prop :=
  ∀ s t : State, LbxInv s → s.lbx.fltValid = true → s.resetNext = false → step s = .next t →
    ∀ j, t.pixel s.lbx.fltSel j = s.pixel s.lbx.fltSel j

/-! ## Unit ARB (R130 to R141) -/

/-- `ARB.WSIZE` and `ARB.RSIZE` (R130, R136): the two sizes, as integers, from cursors that keep the ring invariant. -/
def Obligations.RingSizesCountUnreadPairs : Prop :=
  decode 0x01000000 = .ok .arbWsize ∧ decode 0x11000000 = .ok .arbRsize ∧
  ∀ s : State, s.cfg.AudioOk → RingInv s → ∃ dw dr : Word,
    exec .arbWsize s = .next (s.answered .ok dw) ∧ exec .arbRsize s = .next (s.answered .ok dr) ∧
    (dw.toNat : Int) = s.cfg.ringN - ((s.arb.wr : Int) - s.arb.rd) % (2 * s.cfg.ringN) ∧
    (dr.toNat : Int) = ((s.arb.wr : Int) - s.arb.rd) % (2 * s.cfg.ringN)

/-- `ARB.WPTR` and `ARB.RPTR` (R131, R137): the cursors modulo RING_N; nothing changes. -/
def Obligations.RingPointersAreRingPositions : Prop :=
  decode 0x01010000 = .ok .arbWptr ∧ decode 0x11010000 = .ok .arbRptr ∧
  ∀ s : State, s.cfg.AudioOk → ∃ dw dr : Word,
    exec .arbWptr s = .next (s.answered .ok dw) ∧ exec .arbRptr s = .next (s.answered .ok dr) ∧
    dw.toNat = s.arb.wr % s.cfg.ringN ∧ dr.toNat = s.arb.rd % s.cfg.ringN

/-- `ARB.WSAMP` (R132): one pair at `(wr + idx) mod RING_N`, left in the low half; every other position reads as
before, and nothing else changes but the answer. -/
def Obligations.WsampStoresOnePairInTheWindow : Prop :=
  (∀ idx, idx < 65536 → decode ((0x0102 : BitVec 16) ++ BitVec.ofNat 16 idx) = .ok (.arbWsamp idx)) ∧
  ∀ (s : State) (idx : Nat),
    (s.ctlFault = 0 → writable s.cfg s.arb ≤ idx → exec (.arbWsamp idx) s = .next (s.faulted 0x08)) ∧
    (idx < writable s.cfg s.arb → ∃ t, exec (.arbWsamp idx) s = .next t ∧
      (t.sample ((s.arb.wr + idx) % s.cfg.ringN)).left.toNat = s.wdata.toNat % 65536 ∧
      (t.sample ((s.arb.wr + idx) % s.cfg.ringN)).right.toNat = s.wdata.toNat / 65536 ∧
      (∀ j, j ≠ (s.arb.wr + idx) % s.cfg.ringN → t.sample j = s.sample j) ∧
      t = ({ s with arb := { s.arb with samp := t.arb.samp } } : State).answered .ok 0)

/-- `ARB.ADVW` (R133): only the write cursor moves, modulo `2*RING_N`. -/
def Obligations.AdvwMovesTheWriteCursor : Prop :=
  decode 0x01030000 = .ok .arbAdvw ∧
  ∀ s : State,
    (s.ctlFault = 0 → writable s.cfg s.arb < s.wdata.toNat → exec .arbAdvw s = .next (s.faulted 0x06)) ∧
    (s.wdata.toNat ≤ writable s.cfg s.arb → exec .arbAdvw s = .next (({ s with arb := { s.arb with
      wr := (s.arb.wr + s.wdata.toNat) % (2 * s.cfg.ringN) } } : State).answered .ok 0))

/-- `ARB.WAVE` (R134): one holding register, channels 1 to 5, gets the low WAVE_W bits; the other four stay. -/
def Obligations.WaveLoadsOneMixerInput : Prop :=
  (∀ idx, idx < 65536 → decode ((0x0104 : BitVec 16) ++ BitVec.ofNat 16 idx) = .ok (.arbWave idx)) ∧
  ∀ (s : State) (idx : Nat),
    (s.ctlFault = 0 → (idx < 1 ∨ 5 < idx) → exec (.arbWave idx) s = .next (s.faulted 0x0D)) ∧
    (s.cfg.waveW ≤ 16 → 1 ≤ idx → idx ≤ 5 → ∃ t, exec (.arbWave idx) s = .next t ∧
      (t.arb.wave.get idx).toNat = s.wdata.toNat % 2 ^ s.cfg.waveW ∧
      (∀ k, k ≠ idx → t.arb.wave.get k = s.arb.wave.get k) ∧
      t = ({ s with arb := { s.arb with wave := t.arb.wave } } : State).answered .ok 0)

/-- `ARB.MIXW` (R135): the mix of the five held inputs is stored at `(wr + idx) mod RING_N`; every other position
reads as before, and nothing else changes but the answer. -/
def Obligations.MixwStoresTheMixInTheWindow : Prop :=
  (∀ idx, idx < 65536 → decode ((0x0105 : BitVec 16) ++ BitVec.ofNat 16 idx) = .ok (.arbMixw idx)) ∧
  ∀ (s : State) (idx : Nat),
    (s.ctlFault = 0 → writable s.cfg s.arb ≤ idx → exec (.arbMixw idx) s = .next (s.faulted 0x08)) ∧
    (idx < writable s.cfg s.arb → ∃ t, exec (.arbMixw idx) s = .next t ∧
      t.sample ((s.arb.wr + idx) % s.cfg.ringN) = mix s.arb.wave ∧
      (∀ j, j ≠ (s.arb.wr + idx) % s.cfg.ringN → t.sample j = s.sample j) ∧
      t = ({ s with arb := { s.arb with samp := t.arb.samp } } : State).answered .ok 0)

/-- `Mix` (R140, R9): each channel is the signed 16-bit number congruent to the exact sum modulo 65536; it truncates
and never saturates. -/
def Obligations.MixTruncatesTheExactSums : Prop :=
  ∀ w : Waves,
    (-32768 ≤ (mix w).left.toInt ∧ (mix w).left.toInt ≤ 32767 ∧
      ((mix w).left.toInt - ((w.w1.toNat : Int) * 6 + w.w2.toNat * 3 + w.w3.toNat * 5 + w.w4.toNat * 3
        + w.w5.toNat * 32)) % 65536 = 0) ∧
    (-32768 ≤ (mix w).right.toInt ∧ (mix w).right.toInt ≤ 32767 ∧
      ((mix w).right.toInt - ((w.w1.toNat : Int) * 3 + w.w2.toNat * 6 + w.w3.toNat * 5 + w.w4.toNat * 3
        + w.w5.toNat * 32)) % 65536 = 0)

/-- `ARB.RSAMP` (R138): the pair at `(rd + idx) mod RING_N`, left in bits 15:0 and right in bits 31:16; nothing is
consumed. -/
def Obligations.RsampReadsOnePairOfTheWindow : Prop :=
  (∀ idx, idx < 65536 → decode ((0x1102 : BitVec 16) ++ BitVec.ofNat 16 idx) = .ok (.arbRsamp idx)) ∧
  ∀ (s : State) (idx : Nat),
    (s.ctlFault = 0 → readable s.cfg s.arb ≤ idx → exec (.arbRsamp idx) s = .next (s.faulted 0x08)) ∧
    (idx < readable s.cfg s.arb → ∃ d : Word, exec (.arbRsamp idx) s = .next (s.answered .ok d) ∧
      d.toNat = (s.sample ((s.arb.rd + idx) % s.cfg.ringN)).right.toNat * 65536
        + (s.sample ((s.arb.rd + idx) % s.cfg.ringN)).left.toNat)

/-- `ARB.ADVR` (R139): only the read cursor moves, modulo `2*RING_N`. -/
def Obligations.AdvrMovesTheReadCursor : Prop :=
  decode 0x11030000 = .ok .arbAdvr ∧
  ∀ s : State,
    (s.ctlFault = 0 → readable s.cfg s.arb < s.wdata.toNat → exec .arbAdvr s = .next (s.faulted 0x07)) ∧
    (s.wdata.toNat ≤ readable s.cfg s.arb → exec .arbAdvr s = .next (({ s with arb := { s.arb with
      rd := (s.arb.rd + s.wdata.toNat) % (2 * s.cfg.ringN) } } : State).answered .ok 0))

/-- A pair stored at offset `i` and covered by an advance is read back at offset `unread + i`: FIFO order
(R132, R133, R138, R141 (c)). -/
def Obligations.StoredPairIsReadInOrder : Prop :=
  ∀ (s : State) (i : Nat) (n : Word), s.cfg.AudioOk → RingInv s → i < n.toNat → n.toNat ≤ writable s.cfg s.arb →
    ∃ t u v, exec (.arbWsamp i) s = .next t ∧ exec .arbAdvw { t with wdata := n } = .next u ∧
      exec (.arbRsamp (readable s.cfg s.arb + i)) u = .next v ∧ v = u.answered .ok s.wdata

/-- From an empty ring, advancing the writer by RING_N and the reader by RING_N succeeds and gives the full capacity
back (R141 (d)). -/
def Obligations.FullRingRoundTripRestoresCapacity : Prop :=
  ∀ (s : State) (n : Word), s.cfg.AudioOk → RingInv s → unread s.cfg s.arb = 0 → n.toNat = s.cfg.ringN →
    ∃ t u, exec .arbAdvw { s with wdata := n } = .next t ∧ exec .arbAdvr { t with wdata := n } = .next u ∧
      writable t.cfg t.arb = 0 ∧ u.arb.wr = u.arb.rd ∧ writable u.cfg u.arb = s.cfg.ringN

/-- No step but the reset input changes an unread pair (R31, R141 (b)): "no sample is ever overwritten before being
read". -/
def Obligations.UnreadPairsAreNeverOverwritten : Prop :=
  ∀ s t : State, RingInv s → s.resetNext = false → step s = .next t →
    ∀ j, j < readable s.cfg s.arb →
      t.sample ((s.arb.rd + j) % s.cfg.ringN) = s.sample ((s.arb.rd + j) % s.cfg.ringN)

/-! ## Unit XFO (R155 to R166) -/

/-- `XFO.REQUEST` and `XFO.RELEASE` (R155, R158): the request flag, and the latch states they need. -/
def Obligations.RequestAndReleaseMoveTheRequestFlag : Prop :=
  decode 0x02000000 = .ok .xfoRequest ∧ decode 0x02030000 = .ok .xfoRelease ∧
  ∀ s : State,
    (s.ctlFault = 0 → (s.xfo.req = true ∨ s.xfo.ack = true) → exec .xfoRequest s = .next (s.faulted 0x0A)) ∧
    (s.xfo.req = false → s.xfo.ack = false →
      exec .xfoRequest s = .next (({ s with xfo := { s.xfo with req := true } } : State).answered .ok 0)) ∧
    (s.ctlFault = 0 → (s.xfo.req = false ∨ s.xfo.ack = false) → exec .xfoRelease s = .next (s.faulted 0x0A)) ∧
    (s.xfo.req = true → s.xfo.ack = true →
      exec .xfoRelease s = .next (({ s with xfo := { s.xfo with req := false } } : State).answered .ok 0))

/-- `XFO.WAITACK` and `XFO.WAITRESUME` (R156, R159): a fault in the wrong latch state, RETRY while the acknowledge flag
is not as awaited, else OK; none of them changes the latch. -/
def Obligations.WaitsPollTheAcknowledgeFlag : Prop :=
  decode 0x02010000 = .ok .xfoWaitack ∧ decode 0x02040000 = .ok .xfoWaitresume ∧
  ∀ s : State,
    (s.ctlFault = 0 → s.xfo.req = false → exec .xfoWaitack s = .next (s.faulted 0x0A)) ∧
    (s.xfo.req = true → s.xfo.ack = false → exec .xfoWaitack s = .next (s.answered .retry 0)) ∧
    (s.xfo.req = true → s.xfo.ack = true → exec .xfoWaitack s = .next (s.answered .ok 1)) ∧
    (s.ctlFault = 0 → s.xfo.req = true → exec .xfoWaitresume s = .next (s.faulted 0x0A)) ∧
    (s.xfo.req = false → s.xfo.ack = true → exec .xfoWaitresume s = .next (s.answered .retry 0)) ∧
    (s.xfo.req = false → s.xfo.ack = false → exec .xfoWaitresume s = .next (s.answered .ok 0))

/-- `XFO.EXEC` (R157, R224, R226): outside the grant it faults; in the grant it makes the slot's bytes the save
region's bytes, leaves every other byte of the storage and everything else as it was, and is refused for a slot that does
not exist (the refusal is the model's reading of R226, DEDUCED, log 10). -/
def Obligations.ExecCopiesTheSaveRegionToTheSlot : Prop :=
  decode 0x02020000 = .ok .xfoExec ∧
  ∀ s : State,
    (s.ctlFault = 0 → (s.xfo.req = false ∨ s.xfo.ack = false) → exec .xfoExec s = .next (s.faulted 0x0A)) ∧
    (s.xfo.req = true → s.xfo.ack = true → s.cfg.numSlots ≤ s.wdata.toNat →
      exec .xfoExec s = .refused .flashSlotUndefined) ∧
    (s.xfo.req = true → s.xfo.ack = true → s.wdata.toNat < s.cfg.numSlots → ∃ t, exec .xfoExec s = .next t ∧
      (∀ j, j < s.cfg.slotSize →
        t.env.nvByte (s.cfg.nvBase - s.cfg.slotSize * (s.wdata.toNat + 1) + j) = s.env.saveByte j) ∧
      (∀ a, (a < s.cfg.nvBase - s.cfg.slotSize * (s.wdata.toNat + 1) ∨
          s.cfg.nvBase - s.cfg.slotSize * (s.wdata.toNat + 1) + s.cfg.slotSize ≤ a) →
        t.env.nvByte a = s.env.nvByte a) ∧
      t = ({ s with env := { s.env with nv := t.env.nv } } : State).answered .ok 0)

/-- `XFO.STATUS` on both ports shows both flags, request in bit 0 and acknowledge in bit 1; `XFO.ISEXIST` shows the
request (R160, R161); nothing changes. -/
def Obligations.LatchReadsShowItsFlags : Prop :=
  decode 0x02050000 = .ok .xfoStatusA ∧ decode 0x12050000 = .ok .xfoStatusB ∧
  decode 0x12000000 = .ok .xfoIsexist ∧
  ∀ s : State, ∃ d e : Word,
    exec .xfoStatusA s = .next (s.answered .ok d) ∧ exec .xfoStatusB s = .next (s.answered .ok d) ∧
    d.toNat = 2 * s.xfo.ack.toNat + s.xfo.req.toNat ∧
    exec .xfoIsexist s = .next (s.answered .ok e) ∧ e.toNat = s.xfo.req.toNat

/-- `XFO.ACK` (R162): only from Streaming and only on a request; the display core parks. -/
def Obligations.AckParksTheDisplayCore : Prop :=
  decode 0x12010000 = .ok .xfoAck ∧
  ∀ s : State,
    (s.ctlFault = 0 → s.fsg.dstate ≠ .streaming → exec .xfoAck s = .next (s.faulted 0x0B)) ∧
    (s.ctlFault = 0 → s.fsg.dstate = .streaming → s.xfo.req = false → exec .xfoAck s = .next (s.faulted 0x09)) ∧
    (s.fsg.dstate = .streaming → s.xfo.req = true →
      exec .xfoAck s = .next (({ s with
        xfo := { s.xfo with ack := true }
        fsg := { s.fsg with dstate := .parkedForFlash } } : State).answered .ok 0))

/-- `XFO.RESUME` (R163): waits while the request stands, then back to Streaming whatever the lock. -/
def Obligations.ResumeLeavesThePark : Prop :=
  decode 0x12020000 = .ok .xfoResume ∧
  ∀ s : State,
    (s.ctlFault = 0 → s.fsg.dstate ≠ .parkedForFlash → exec .xfoResume s = .next (s.faulted 0x0B)) ∧
    (s.fsg.dstate = .parkedForFlash → s.xfo.req = true → exec .xfoResume s = .next (s.answered .retry 0)) ∧
    (s.fsg.dstate = .parkedForFlash → s.xfo.req = false →
      exec .xfoResume s = .next (({ s with
        xfo := { s.xfo with ack := false }
        fsg := { s.fsg with dstate := .streaming } } : State).answered .ok 0))

/-- "`op` (erase + program of one save slot) never executes while DisplayEngine is in Streaming": a step that changes
the non-volatile storage runs in the grant, with the display core parked. "DisplayEngine never attempts to read a line
buffer while ParkedForFlash": the three commands that touch a line buffer then fault (R166). -/
def Obligations.FlashRunsOnlyWhileParked : Prop :=
  (∀ s t : State, ParkInv s → step s = .next t → t.env.nv ≠ s.env.nv →
    s.fsg.dstate = .parkedForFlash ∧ s.xfo.req = true ∧ s.xfo.ack = true) ∧
  (∀ (s : State) (i : Instr), s.ctlFault = 0 → s.fsg.dstate = .parkedForFlash →
    (i = .lbxPoll ∨ (∃ idx, i = .lbxRpix idx) ∨ i = .lbxReturn) → exec i s = .next (s.faulted 0x05))

/-- The latch moves only around the cycle idle, requested, grant, releasing, idle, and each move has one command
(R35); a request stands until it is acknowledged (R165). -/
def Obligations.LatchMovesAroundItsCycle : Prop :=
  ∀ (i : Instr) (s t : State), ParkInv s → exec i s = .next t →
    t.xfo = s.xfo ∨
    (i = .xfoRequest ∧ s.xfo = ⟨false, false⟩ ∧ t.xfo = ⟨true, false⟩) ∨
    (i = .xfoAck ∧ s.xfo = ⟨true, false⟩ ∧ t.xfo = ⟨true, true⟩) ∨
    (i = .xfoRelease ∧ s.xfo = ⟨true, true⟩ ∧ t.xfo = ⟨false, true⟩) ∨
    (i = .xfoResume ∧ s.xfo = ⟨false, true⟩ ∧ t.xfo = ⟨false, false⟩)

/-! ## Unit PAD (R175 to R183) -/

/-- `PAD.REPORT` and `PAD.DETACH` (R175, R176): one slot's latch, the whole word at once. -/
def Obligations.ReportsAreLatchedWhole : Prop :=
  (∀ idx, idx < 65536 → decode ((0x2300 : BitVec 16) ++ BitVec.ofNat 16 idx) = .ok (.padReport idx) ∧
    decode ((0x2301 : BitVec 16) ++ BitVec.ofNat 16 idx) = .ok (.padDetach idx)) ∧
  ∀ s : State,
    (∀ idx, s.ctlFault = 0 → 1 < idx → exec (.padReport idx) s = .next (s.faulted 0x0D) ∧
      exec (.padDetach idx) s = .next (s.faulted 0x0D)) ∧
    exec (.padReport 0) s = .next (({ s with pad := { s.pad with raw0 := s.wdata } } : State).answered .ok 0) ∧
    exec (.padReport 1) s = .next (({ s with pad := { s.pad with raw1 := s.wdata } } : State).answered .ok 0) ∧
    exec (.padDetach 0) s = .next (({ s with pad := { s.pad with raw0 := 0x00808080 } } : State).answered .ok 0) ∧
    exec (.padDetach 1) s = .next (({ s with pad := { s.pad with raw1 := 0x00808080 } } : State).answered .ok 0)

/-- `PAD.CUR`, `PAD.PUSHED`, `PAD.RAW` (R177, R178, R179): reads that change nothing. -/
def Obligations.PadReadsShowTheirRegisters : Prop :=
  (∀ idx, idx < 65536 → decode ((0x0300 : BitVec 16) ++ BitVec.ofNat 16 idx) = .ok (.padCur idx) ∧
    decode ((0x0302 : BitVec 16) ++ BitVec.ofNat 16 idx) = .ok (.padRaw idx)) ∧
  decode 0x03010000 = .ok .padPushed ∧
  ∀ s : State,
    (∀ idx, s.ctlFault = 0 → 1 < idx → exec (.padCur idx) s = .next (s.faulted 0x0D) ∧
      exec (.padRaw idx) s = .next (s.faulted 0x0D)) ∧
    exec (.padCur 0) s = .next (s.answered .ok s.pad.cur0) ∧
    exec (.padCur 1) s = .next (s.answered .ok s.pad.cur1) ∧
    exec .padPushed s = .next (s.answered .ok s.pad.pushed) ∧
    exec (.padRaw 0) s = .next (s.answered .ok s.pad.raw0) ∧
    exec (.padRaw 1) s = .next (s.answered .ok s.pad.raw1)

/-- `Translate` (R180), bit by bit for every well-formed choice of masks: the strict thresholds 64 and 192, the four
buttons, and no bit outside the eight masks. -/
def Obligations.TranslateMapsAxesAndButtons : Prop :=
  ∀ (c : Config) (raw : Word), c.MasksOk →
    (Machine.translate c raw &&& c.mLeft ≠ 0 ↔ raw.toNat % 256 < 64) ∧
    (Machine.translate c raw &&& c.mRight ≠ 0 ↔ 192 < raw.toNat % 256) ∧
    (Machine.translate c raw &&& c.mUp ≠ 0 ↔ raw.toNat / 256 % 256 < 64) ∧
    (Machine.translate c raw &&& c.mDown ≠ 0 ↔ 192 < raw.toNat / 256 % 256) ∧
    (Machine.translate c raw &&& c.mA ≠ 0 ↔ raw.getLsbD 24 = true) ∧
    (Machine.translate c raw &&& c.mB ≠ 0 ↔ raw.getLsbD 25 = true) ∧
    (Machine.translate c raw &&& c.mSelect ≠ 0 ↔ raw.getLsbD 30 = true) ∧
    (Machine.translate c raw &&& c.mStart ≠ 0 ↔ raw.getLsbD 31 = true) ∧
    Machine.translate c raw &&& ~~~(Config.allMasks c) = 0

/-- A direction held since the last tick fires no gesture again: with LEFT, RIGHT or START already in the previous
snapshot, the next tick reports no PREV, NEXT or SAVE_RESET (R181, R182, R183 (a)). -/
def Obligations.HeldButtonsFireNoGestureAgain : Prop :=
  ∀ s : State, s.cfg.MasksOk → ∃ t, exec .fsgFrame s = .next t ∧
    (s.pad.prev &&& s.cfg.mLeft ≠ 0 → t.fsg.gest.getLsbD 0 = false) ∧
    (s.pad.prev &&& s.cfg.mRight ≠ 0 → t.fsg.gest.getLsbD 1 = false) ∧
    (s.pad.prev &&& s.cfg.mStart ≠ 0 → t.fsg.gest.getLsbD 2 = false)

/-! ## Unit FSG (R200 to R205) -/

/-- `FSG.FRAME` (R200 with R181, R182): both players are translated, player 1's rising edges and gestures are
recognised, the snapshot moves, and nothing else changes but the answer. -/
def Obligations.FrameTickTakesTheSnapshot : Prop :=
  decode 0x04000000 = .ok .fsgFrame ∧
  ∀ s : State, ∃ t, exec .fsgFrame s = .next t ∧
    t.pad = { s.pad with
      cur0 := Machine.translate s.cfg s.pad.raw0
      cur1 := Machine.translate s.cfg s.pad.raw1
      pushed := Machine.translate s.cfg s.pad.raw0 &&& ~~~s.pad.prev
      prev := Machine.translate s.cfg s.pad.raw0 } ∧
    (t.fsg.gest.getLsbD 0 = true ↔ t.pad.cur0 &&& s.cfg.mSelect ≠ 0 ∧ t.pad.pushed &&& s.cfg.mLeft ≠ 0) ∧
    (t.fsg.gest.getLsbD 1 = true ↔ t.pad.cur0 &&& s.cfg.mSelect ≠ 0 ∧ t.pad.pushed &&& s.cfg.mRight ≠ 0) ∧
    (t.fsg.gest.getLsbD 2 = true ↔ t.pad.cur0 &&& s.cfg.mSelect ≠ 0 ∧ t.pad.pushed &&& s.cfg.mStart ≠ 0 ∧
      t.pad.cur0 &&& s.cfg.mA ≠ 0 ∧ t.pad.cur0 &&& s.cfg.mB ≠ 0) ∧
    (t.fsg.sys = true ↔ t.fsg.gest ≠ 0) ∧
    t = ({ s with pad := t.pad, fsg := { s.fsg with gest := t.fsg.gest, sys := t.fsg.sys } } : State).answered .ok 0

/-- `FSG.GEST`, `FSG.SYS`, `FSG.DSTATE` on both ports (R201, R202, R203): reads that change nothing. -/
def Obligations.FsgReadsShowTheirRegisters : Prop :=
  decode 0x04010000 = .ok .fsgGest ∧ decode 0x04020000 = .ok .fsgSys ∧ decode 0x04030000 = .ok .fsgDstateA ∧
  decode 0x14030000 = .ok .fsgDstateB ∧
  ∀ s : State, ∃ y d : Word,
    exec .fsgGest s = .next (s.answered .ok (s.fsg.gest.setWidth 32)) ∧
    exec .fsgSys s = .next (s.answered .ok y) ∧ y.toNat = s.fsg.sys.toNat ∧
    exec .fsgDstateA s = .next (s.answered .ok d) ∧ exec .fsgDstateB s = .next (s.answered .ok d) ∧
    (s.fsg.dstate = .waitValidTiming → d = 0) ∧ (s.fsg.dstate = .streaming → d = 1) ∧
    (s.fsg.dstate = .parkedForFlash → d = 2)

/-- `FSG.DSYNC` (R204): its five cases; the status is RETRY exactly when the state after it is WaitValidTiming. -/
def Obligations.DsyncFollowsTheLock : Prop :=
  decode 0x14000000 = .ok .fsgDsync ∧
  ∀ s : State,
    (s.fsg.dstate = .waitValidTiming → s.fsg.lock = true →
      exec .fsgDsync s = .next (({ s with fsg := { s.fsg with dstate := .streaming } } : State).answered .ok 1)) ∧
    (s.fsg.dstate = .waitValidTiming → s.fsg.lock = false → exec .fsgDsync s = .next (s.answered .retry 0)) ∧
    (s.fsg.dstate = .streaming → s.fsg.lock = false →
      exec .fsgDsync s =
        .next (({ s with fsg := { s.fsg with dstate := .waitValidTiming } } : State).answered .retry 0)) ∧
    (s.fsg.dstate = .streaming → s.fsg.lock = true → exec .fsgDsync s = .next (s.answered .ok 1)) ∧
    (s.fsg.dstate = .parkedForFlash → exec .fsgDsync s = .next (s.answered .ok 2))

/-- `FSG.LOCK` (R205): only the lock register, from `wdata[0]`. -/
def Obligations.LockDrivesTheLockRegister : Prop :=
  decode 0x24000000 = .ok .fsgLock ∧
  ∀ s : State, exec .fsgLock s =
    .next (({ s with fsg := { s.fsg with lock := s.wdata.getLsbD 0 } } : State).answered .ok 0)

/-! ## Rules about all commands -/

/-- The commands R66 lists as pure reads change nothing, whatever they answer: the state after is the state before
with an answer, or with a first fault. -/
def Obligations.PureReadsChangeNothing : Prop :=
  ∀ (i : Instr) (s : State), isPureRead i = true → s.ctlFault = 0 →
    (∃ st d, exec i s = .next (s.answered st d)) ∨ (∃ code, exec i s = .next (s.faulted code))

/-- Every shared flag has one writing port (R74), and the owner tag is set by port A only when it is clear and cleared
by port B only when it is set. -/
def Obligations.EverySharedFlagHasOneWriter : Prop :=
  ∀ (i : Instr) (s t : State), exec i s = .next t →
    (i.port ≠ .a → t.lbx.fillSel = s.lbx.fillSel ∧ t.lbx.acq = s.lbx.acq ∧ t.arb.wr = s.arb.wr ∧
      t.xfo.req = s.xfo.req) ∧
    (i.port ≠ .b → t.arb.rd = s.arb.rd ∧ t.xfo.ack = s.xfo.ack ∧ t.fsg.dstate = s.fsg.dstate) ∧
    (i.port ≠ .x → t.pad.raw0 = s.pad.raw0 ∧ t.pad.raw1 = s.pad.raw1 ∧ t.fsg.lock = s.fsg.lock) ∧
    (t.lbx.fltValid ≠ s.lbx.fltValid →
      (i = .lbxPublish ∧ s.lbx.fltValid = false) ∨ (i = .lbxReturn ∧ s.lbx.fltValid = true))

/-! ## Invariants and reset -/

/-- Every step keeps the invariants of the spec, whatever the next input is: the line buffers (R26, R27), the cursors,
the samples and the mixer inputs (R28 to R32), the pad snapshots (R39, R180), the gestures (R41, R182), the park (R42), the
fault codes (R252), the save region's size (R221) and the selection (R223, R232). Two more clauses are the model's own and
no rule's: there is no catalog before `init` (DESIGN CHOICE, log 5; the field `parsed`, log 23), and the sparse stores
keep their canonical form (log 2, log 3). -/
def Obligations.EveryStepKeepsTheInvariants : Prop :=
  ∀ s t : State, s.Inv → step s = .next t → t.Inv

/-- The state after reset meets the invariants, for every well-formed configuration. For the block's registers this
follows from their reset values (R47; R27, R30 and R42 state it). For the stores, the memories and the environment it rests
on the model's choices: nothing is listed in the stores (log 2) or stored in the memories (log 3), and the catalog is empty
and unparsed (log 5, log 23; all four DESIGN CHOICE). -/
def Obligations.ResetMeetsTheInvariants : Prop :=
  ∀ c : Config, c.WellFormed → (State.resetWith c).Inv

/-- The registers of the block right after reset (R47), for every configuration. -/
def Obligations.ResetGivesEveryRegisterItsValue : Prop :=
  ∀ c : Config, (State.resetWith c).cfg = c ∧
    (State.resetWith c).lbx.fillSel = 0 ∧ (State.resetWith c).lbx.acq = false ∧
    (State.resetWith c).lbx.fltValid = false ∧ (State.resetWith c).lbx.fltSel = 0 ∧
    (State.resetWith c).arb.wr = 0 ∧ (State.resetWith c).arb.rd = 0 ∧
    (∀ k, (State.resetWith c).arb.wave.get k = 0) ∧
    (State.resetWith c).xfo.req = false ∧ (State.resetWith c).xfo.ack = false ∧
    (State.resetWith c).pad.raw0 = 0x00808080 ∧ (State.resetWith c).pad.raw1 = 0x00808080 ∧
    (State.resetWith c).pad.cur0 = 0 ∧ (State.resetWith c).pad.cur1 = 0 ∧
    (State.resetWith c).pad.pushed = 0 ∧ (State.resetWith c).pad.prev = 0 ∧
    (State.resetWith c).fsg.gest = 0 ∧ (State.resetWith c).fsg.sys = false ∧
    (State.resetWith c).fsg.dstate = .waitValidTiming ∧ (State.resetWith c).fsg.lock = false ∧
    (State.resetWith c).ctlFault = 0

/-- The reset input brings every register of the block to its reset value from any state, a dead one too, and leaves
the environment as it is (R280; that the inputs still to come survive it is the model's choice, log 15). -/
def Obligations.ResetInputRestoresTheBlock : Prop :=
  ∀ (s : State) (rest : List Input), s.cfg.WellFormed → s.queue = .reset :: rest →
    ∃ t, step s = .next t ∧ SameBlock (State.resetWith s.cfg) t ∧ t.env = s.env ∧ t.cfg = s.cfg ∧ t.queue = rest

/-! ## The environment and the clients (R221 to R240, R99, R164) -/

/-- `SlotAddr(k)` is NV_BASE less `SLOT_SIZE * (k + 1)`, exactly; so slot 0 ends just below the base, higher numbers lie
lower and do not overlap; and the document's own two addresses (R224). -/
def Obligations.SaveSlotsDoNotOverlap : Prop :=
  (∀ c : Config, c.nvBase = 0x10080000 → c.slotSize = 8192 →
    slotAddr c 0 = 0x1007E000 ∧ slotAddr c 1 = 0x1007C000) ∧
  (∀ (c : Config) (k : Nat), c.WellFormed → k < c.numSlots →
    slotAddr c k + c.slotSize * (k + 1) = c.nvBase) ∧
  (∀ (c : Config) (k m : Nat), c.WellFormed → k < m → m < c.numSlots →
    slotAddr c m + c.slotSize ≤ slotAddr c k)

/-- A flash operation on the selected slot followed by `load()` reproduces the saved bytes exactly, in a clean region
(R226, R228). -/
def Obligations.LoadAfterSaveReproducesTheBytes : Prop :=
  ∀ (c : Config) (e : Env) (k : Nat), currentSlot c e = some k →
    (∀ j, j < c.slotSize → (loadSave c (flashSlot c k e)).saveByte j = e.saveByte j) ∧
    (loadSave c (flashSlot c k e)).dirty = false

/-- `next()` and `prev()` move the selection by one modulo the entry count, and only the selection; they do nothing in
single-image mode or on an empty catalog; one undoes the other, and `next()` as often as there are entries returns
(R232). -/
def Obligations.CatalogSelectionWraps : Prop :=
  (∀ e : Env, (e.mode = .singleImage ∨ e.catalog = []) → catalogNext e = e ∧ catalogPrev e = e) ∧
  (∀ e : Env, e.mode = .multiImage → e.catalog ≠ [] →
    catalogNext e = { e with selectedIndex := (e.selectedIndex + 1) % e.catalog.length } ∧
    ((catalogPrev e).selectedIndex : Int) = ((e.selectedIndex : Int) - 1) % e.catalog.length ∧
    catalogPrev e = { e with selectedIndex := (catalogPrev e).selectedIndex }) ∧
  (∀ e : Env, e.selectedIndex < e.catalog.length →
    catalogPrev (catalogNext e) = e ∧ catalogNext (catalogPrev e) = e ∧
    catalogNext^[e.catalog.length] e = e)

/-- `save()` with a clean region, or with no slot, does nothing at all: no command, no change of the environment
(R227). -/
def Obligations.CleanSavePerformsNoFlashOperation : Prop :=
  ∀ (s : State) (work : List EmuTask) (rest : List Input), s.cfg.WellFormed → s.queue = .runEmu :: rest →
    s.emu = .job .save :: work → (s.env.dirty = false ∨ currentSlot s.cfg s.env = none) →
    step s = .next { s with emu := work, queue := rest }

/-- A move of the emulation core on one command task serves that command on port A; a FAULT answer ends its whole
procedure, any other answer ends the task (R99; one command a move is the model's choice, log 14). -/
def Obligations.ClientMoveServesItsCommand : Prop :=
  ∀ (s u : State) (i : Instr) (d : Word) (work : List EmuTask) (rest : List Input) (a : Answer),
    s.cfg.WellFormed → s.ctlFault = 0 → s.queue = .runEmu :: rest → s.emu = .job (.issue i d) :: work → i.wf = true →
    i.port = .a → exec i (s.serving .a d rest) = .next u → u.answer = some a →
    step s = .next { u with emu := if a.status = .fault then [] else work }

/-- `save()` of a dirty region runs the whole rendezvous against a streaming display core: after ten moves exactly one
flash operation, on the selected slot, has happened, the latch is idle, the display core streams again and the region
is clean (R164, R165, R227; the interleaving is one example, and one command a move is the model's choice, log 14). -/
def Obligations.SaveRunsTheRendezvous : Prop :=
  ∀ (s : State) (k : Nat), s.cfg.WellFormed → s.ctlFault = 0 → s.xfo = ⟨false, false⟩ → s.fsg.dstate = .streaming →
    s.env.dirty = true → currentSlot s.cfg s.env = some k → k < s.cfg.numSlots → k < 2 ^ 32 →
    s.emu = [.job .save] → s.disp = [.processOrWaitIfExist] →
    s.queue = [.runEmu, .runEmu, .runDisp, .runDisp, .runEmu, .runEmu, .runEmu, .runDisp, .runEmu, .runEmu] →
    ∃ t, Sys2Proof.core.run 10 s = .next t ∧ t.xfo = ⟨false, false⟩ ∧ t.fsg = s.fsg ∧ t.lbx = s.lbx ∧
      t.arb = s.arb ∧ t.pad = s.pad ∧ t.ctlFault = 0 ∧
      t.env = { flashSlot s.cfg k s.env with dirty := false } ∧ t.emu = [] ∧ t.disp = [] ∧ t.queue = []

/-- The emulator's writes reach the bytes of the save region and no others (R221); that the machine stops on a write
outside the region is the model's choice (log 11). -/
def Obligations.EmulatorWritesStayInTheSaveRegion : Prop :=
  ∀ (s : State) (off : Nat) (bytes : List Byte) (rest : List Input), s.cfg.WellFormed →
    s.queue = .saveWrite off bytes :: rest →
    (s.cfg.slotSize < off + bytes.length → step s = .fault .saveRegionRange) ∧
    (off + bytes.length ≤ s.cfg.slotSize → ∃ t, step s = .next t ∧
      (∀ (j : Nat) (h : j < bytes.length), t.env.saveByte (off + j) = bytes[j]) ∧
      (∀ a, (a < off ∨ off + bytes.length ≤ a) → t.env.saveByte a = s.env.saveByte a) ∧
      t = { s with env := { s.env with save := t.env.save }, queue := rest })
end

