-- ==== Sys2Proof/Laws/Store.lean ====
section
/-! SUPPORT. What the stores can do: read after write, the canonical form, and which keys a write adds. -/

namespace Sys2Proof.Machine

variable {α : Type}

theorem Store.get?_put_self (k : Nat) (v : α) (m : Store α) : Store.get? k (Store.put k v m) = some v := by
  induction m with
  | nil => simp [Store.put, Store.get?]
  | cons e t ih =>
    obtain ⟨j, u⟩ := e
    simp only [Store.put]
    split
    · simp [Store.get?]
    · split
      · simp [Store.get?]
      · rename_i hne
        simp [Store.get?, Ne.symm hne, ih]

theorem Store.get?_put_other {j k : Nat} (h : j ≠ k) (v : α) (m : Store α) :
    Store.get? j (Store.put k v m) = Store.get? j m := by
  induction m with
  | nil => simp [Store.put, Store.get?, Ne.symm h]
  | cons e t ih =>
    obtain ⟨i, u⟩ := e
    simp only [Store.put]
    split
    · simp [Store.get?, Ne.symm h]
    · split
      · rename_i hki
        subst hki
        simp [Store.get?, Ne.symm h]
      · simp [Store.get?, ih]

/-- Everything a read can give after a write. -/
theorem Store.get?_put (j k : Nat) (v : α) (m : Store α) :
    Store.get? j (Store.put k v m) = if j = k then some v else Store.get? j m := by
  split
  · rename_i h
    rw [h, Store.get?_put_self]
  · rename_i h
    exact Store.get?_put_other h v m

/-- A write adds the element written and nothing else. -/
theorem Store.mem_put {k : Nat} {v : α} {m : Store α} {e : Nat × α} (h : e ∈ Store.put k v m) :
    e = (k, v) ∨ e ∈ m := by
  induction m with
  | nil => simpa [Store.put] using h
  | cons d t ih =>
    obtain ⟨j, u⟩ := d
    simp only [Store.put] at h
    split at h
    · simpa using h
    · split at h
      · rcases List.mem_cons.1 h with h | h
        · exact .inl h
        · exact .inr (List.mem_cons_of_mem _ h)
      · rcases List.mem_cons.1 h with h | h
        · exact .inr (by simp [h])
        · exact (ih h).imp_right (List.mem_cons_of_mem _)

theorem Store.canonical_put (k : Nat) (v : α) {m : Store α} (h : Store.Canonical m) :
    Store.Canonical (Store.put k v m) := by
  induction m with
  | nil => simp [Store.put, Store.Canonical]
  | cons e t ih =>
    obtain ⟨j, u⟩ := e
    have ht := List.pairwise_cons.1 h
    simp only [Store.put]
    split
    · rename_i hlt
      refine List.pairwise_cons.2 ⟨fun e he => ?_, h⟩
      rcases List.mem_cons.1 he with he | he
      · simpa [he] using hlt
      · exact lt_trans hlt (ht.1 e he)
    · split
      · rename_i hkj
        subst hkj
        exact List.pairwise_cons.2 ⟨fun e he => ht.1 e he, ht.2⟩
      · rename_i hlt hne
        refine List.pairwise_cons.2 ⟨fun e he => ?_, ih ht.2⟩
        rcases Store.mem_put he with he | he
        · simp only [he]; omega
        · exact ht.1 e he

theorem Store.canonical_putAll (bs : List α) :
    ∀ (a : Nat) {m : Store α}, Store.Canonical m → Store.Canonical (Store.putAll a bs m) := by
  induction bs with
  | nil => intro a m h; exact h
  | cons b bs ih => intro a m h; exact ih (a + 1) (Store.canonical_put a b h)

/-- A run of writes adds elements of the written addresses and nothing else. -/
theorem Store.mem_putAll (bs : List α) :
    ∀ (a : Nat) {m : Store α} {e : Nat × α}, e ∈ Store.putAll a bs m →
      (a ≤ e.1 ∧ e.1 < a + bs.length) ∨ e ∈ m := by
  induction bs with
  | nil => intro a m e h; exact .inr h
  | cons b bs ih =>
    intro a m e h
    rcases ih (a + 1) h with h | h
    · exact .inl ⟨by omega, by simp only [List.length_cons]; omega⟩
    · rcases Store.mem_put h with h | h
      · exact .inl (by simp [h])
      · exact .inr h

theorem Store.get?_putAll_other (bs : List α) :
    ∀ (a j : Nat) (m : Store α), (j < a ∨ a + bs.length ≤ j) →
      Store.get? j (Store.putAll a bs m) = Store.get? j m := by
  induction bs with
  | nil => intro a j m _; rfl
  | cons b bs ih =>
    intro a j m h
    simp only [List.length_cons] at h
    rw [Store.putAll, ih (a + 1) j _ (by omega), Store.get?_put_other (by omega)]

theorem Store.get?_putAll_at (bs : List α) :
    ∀ (a i : Nat) (m : Store α) (h : i < bs.length),
      Store.get? (a + i) (Store.putAll a bs m) = some (bs[i]) := by
  induction bs with
  | nil => intro a i m h; simp at h
  | cons b bs ih =>
    intro a i m h
    cases i with
    | zero =>
      rw [Store.putAll, Store.get?_putAll_other bs (a + 1) (a + 0) _ (by omega)]
      simpa using Store.get?_put_self a b m
    | succ i =>
      have := ih (a + 1) i (Store.put a b m) (by simpa using h)
      rw [show a + 1 + i = a + (i + 1) by omega] at this
      simpa [Store.putAll] using this

/-! ## The pixel and sample stores, by their reads -/

/-- A write to one pixel changes no other flag of LBX. -/
theorem Lbx.writePixel_flags (l : Lbx) (b : BitVec 1) (i : Nat) (v : Word) :
    (l.writePixel b i v).fillSel = l.fillSel ∧ (l.writePixel b i v).acq = l.acq ∧
    (l.writePixel b i v).fltValid = l.fltValid ∧ (l.writePixel b i v).fltSel = l.fltSel := by
  unfold Lbx.writePixel
  split <;> simp

/-- A 1-bit buffer number is 0 or 1 (R23). -/
theorem bufferCases : ∀ b : BitVec 1, b = 0#1 ∨ b = 1#1 := by decide

theorem Lbx.pix_writePixel (l : Lbx) (b b' : BitVec 1) (i : Nat) (v : Word) :
    (l.writePixel b i v).pix b' = if b' = b then Store.put i v (l.pix b) else l.pix b' := by
  rcases bufferCases b with rfl | rfl <;> rcases bufferCases b' with rfl | rfl <;>
    simp [Lbx.writePixel, Lbx.pix]

/-- The pixel written reads back; every other pixel reads as before (R111). -/
theorem State.pixel_writePixel (s : State) (b b' : BitVec 1) (i i' : Nat) (v : Word) :
    (s.setLbx (s.lbx.writePixel b i v)).pixel b' i' = if b' = b ∧ i' = i then v else s.pixel b' i' := by
  by_cases h : b' = b
  · subst h
    by_cases hi : i' = i
    · simp [State.pixel, State.setLbx, Lbx.pix_writePixel, hi, Store.get?_put_self]
    · simp [State.pixel, State.setLbx, Lbx.pix_writePixel, hi, Store.get?_put_other hi]
  · simp [State.pixel, State.setLbx, Lbx.pix_writePixel, h]

/-- The pair written reads back; every other position reads as before (R132). -/
theorem State.sample_writeSample (s : State) (j j' : Nat) (p : SamplePair) :
    (s.setArb (s.arb.writeSample j p)).sample j' = if j' = j then p else s.sample j' := by
  by_cases h : j' = j
  · simp [State.sample, State.setArb, Arb.writeSample, h, Store.get?_put_self]
  · simp [State.sample, State.setArb, Arb.writeSample, h, Store.get?_put_other h]

/-! ## The byte memories of the environment -/

theorem Env.nvRead_length (e : Env) (a n : Nat) : (e.nvRead a n).length = n := by simp [Env.nvRead]

theorem Env.saveRead_length (e : Env) (a n : Nat) : (e.saveRead a n).length = n := by simp [Env.saveRead]

/-- A byte of `NV` outside the written addresses reads as before. -/
theorem Env.nvByte_nvWrite_other (e : Env) (a j : Nat) (bs : List Byte) (h : j < a ∨ a + bs.length ≤ j) :
    (e.nvWrite a bs).nvByte j = e.nvByte j := by
  simp [Env.nvByte, Env.nvWrite, Store.get?_putAll_other bs a j e.nv h]

/-- A byte of `NV` at a written address reads as written. -/
theorem Env.nvByte_nvWrite_at (e : Env) (a i : Nat) (bs : List Byte) (h : i < bs.length) :
    (e.nvWrite a bs).nvByte (a + i) = bs[i] := by
  simp [Env.nvByte, Env.nvWrite, Store.get?_putAll_at bs a i e.nv h]

/-- A byte of `SAVE` outside the written offsets reads as before. -/
theorem Env.saveByte_saveWrite_other (e : Env) (a j : Nat) (bs : List Byte) (h : j < a ∨ a + bs.length ≤ j) :
    (e.saveWrite a bs).saveByte j = e.saveByte j := by
  simp [Env.saveByte, Env.saveWrite, Store.get?_putAll_other bs a j e.save h]

/-- A byte of `SAVE` at a written offset reads as written. -/
theorem Env.saveByte_saveWrite_at (e : Env) (a i : Nat) (bs : List Byte) (h : i < bs.length) :
    (e.saveWrite a bs).saveByte (a + i) = bs[i] := by
  simp [Env.saveByte, Env.saveWrite, Store.get?_putAll_at bs a i e.save h]

/-! ## The canonical form, once per memory operation -/

theorem Memory.wf_writePixel {s : State} (h : Memory.wf s) (b : BitVec 1) (i : Nat) (v : Word) :
    Memory.wf (s.setLbx (s.lbx.writePixel b i v)) := by
  obtain ⟨h0, h1, h2⟩ := h
  unfold Memory.wf Lbx.writePixel State.setLbx
  split
  · exact ⟨Store.canonical_put i v h0, h1, h2⟩
  · exact ⟨h0, Store.canonical_put i v h1, h2⟩

theorem Memory.wf_writeSample {s : State} (h : Memory.wf s) (j : Nat) (p : SamplePair) :
    Memory.wf (s.setArb (s.arb.writeSample j p)) := by
  obtain ⟨h0, h1, h2, h3⟩ := h
  exact ⟨h0, h1, Store.canonical_put j p h2, h3⟩

theorem Memory.wf_nvWrite {s : State} (h : Memory.wf s) (a : Nat) (bs : List Byte) :
    Memory.wf (s.setEnv (s.env.nvWrite a bs)) := by
  obtain ⟨h0, h1, h2, h3, h4⟩ := h
  exact ⟨h0, h1, h2, Store.canonical_putAll bs a h3, h4⟩

theorem Memory.wf_saveWrite {s : State} (h : Memory.wf s) (a : Nat) (bs : List Byte) :
    Memory.wf (s.setEnv (s.env.saveWrite a bs)) := by
  obtain ⟨h0, h1, h2, h3, h4⟩ := h
  exact ⟨h0, h1, h2, h3, Store.canonical_putAll bs a h4⟩

theorem Memory.wf_resetBlock {s : State} (h : Memory.wf s) : Memory.wf s.resetBlock :=
  ⟨.nil, .nil, .nil, h.2.2.2⟩

theorem Memory.wf_resetWith (c : Config) : Memory.wf (State.resetWith c) :=
  ⟨.nil, .nil, .nil, .nil, .nil⟩

end Sys2Proof.Machine
end

