-- ==== Sys2Proof/Laws/Environment.lean ====
section
/-! SUPPORT. What the environment's operations do, said once (R224 to R232). -/

namespace Sys2Proof.Machine

/-- The flash operation, byte by byte: the slot gets the save region's bytes, every other byte of `NV` stays, and
nothing else of the environment changes (R226). -/
theorem flashSlot_spec (c : Config) (k : Nat) (e : Env) :
    (∀ j, j < c.slotSize → (flashSlot c k e).nvByte (slotAddr c k + j) = e.saveByte j) ∧
    (∀ a, (a < slotAddr c k ∨ slotAddr c k + c.slotSize ≤ a) → (flashSlot c k e).nvByte a = e.nvByte a) ∧
    flashSlot c k e = { e with nv := (flashSlot c k e).nv } := by
  refine ⟨fun j hj => ?_, fun a ha => ?_, rfl⟩
  · unfold flashSlot
    rw [Env.nvByte_nvWrite_at _ _ _ _ (by simpa [Env.saveRead_length] using hj)]
    simp [Env.saveRead]
  · exact Env.nvByte_nvWrite_other _ _ _ _ (by simpa [Env.saveRead_length] using ha)

/-- `load()` with no slot does nothing (R228). -/
theorem loadSave_none {c : Config} {e : Env} (h : currentSlot c e = none) : loadSave c e = e := by
  simp [loadSave, currentSlotAddress, h]

/-- `load()` with a slot, byte by byte (R228). -/
theorem loadSave_some {c : Config} {e : Env} {k : Nat} (h : currentSlot c e = some k) :
    (∀ j, j < c.slotSize → (loadSave c e).saveByte j = e.nvByte (slotAddr c k + j)) ∧
    loadSave c e = { e with save := (loadSave c e).save, dirty := false } := by
  have he : loadSave c e = { e.saveWrite 0 (e.nvRead (slotAddr c k) c.slotSize) with dirty := false } := by
    simp [loadSave, currentSlotAddress, h]
  refine ⟨fun j hj => ?_, by rw [he]; rfl⟩
  have := Env.saveByte_saveWrite_at e 0 j (e.nvRead (slotAddr c k) c.slotSize)
    (by simpa [Env.nvRead_length] using hj)
  rw [Nat.zero_add] at this
  rw [he]
  show (e.saveWrite 0 (e.nvRead (slotAddr c k) c.slotSize)).saveByte j = _
  rw [this]
  simp [Env.nvRead]

/-- `next()` changes the selection only (R232). -/
theorem catalogNext_eq (e : Env) : catalogNext e = { e with selectedIndex := (catalogNext e).selectedIndex } := by
  unfold catalogNext
  split <;> rfl

/-- `prev()` changes the selection only (R232). -/
theorem catalogPrev_eq (e : Env) : catalogPrev e = { e with selectedIndex := (catalogPrev e).selectedIndex } := by
  unfold catalogPrev
  split <;> rfl

/-- The first `init()` parses the storage: it sets the mode and the catalog and nothing else (R230). -/
theorem catalogInit_first (c : Config) (base : Nat) (e : Env) (h : e.parsed = false) :
    catalogInit c base e =
      { e with parsed := true, mode := (parseCatalog c base e).1, catalog := (parseCatalog c base e).2 } := by
  simp [catalogInit, h]

/-- A parsed catalog is immutable: a later `init()` changes nothing (R223, log 23). -/
theorem catalogInit_parsed (c : Config) (base : Nat) (e : Env) (h : e.parsed = true) : catalogInit c base e = e := by
  simp [catalogInit, h]

end Sys2Proof.Machine
end

