-- ==== Sys2Proof/Laws/State.lean ====
section
/-! SUPPORT. One lemma per field per named update of State, true by rfl, so that no later proof unfolds an update. -/

namespace Sys2Proof.Machine

@[simp] theorem State.setLbx_cfg (s : State) (l : Lbx) : (s.setLbx l).cfg = s.cfg := rfl
@[simp] theorem State.setLbx_lbx (s : State) (l : Lbx) : (s.setLbx l).lbx = l := rfl
@[simp] theorem State.setLbx_arb (s : State) (l : Lbx) : (s.setLbx l).arb = s.arb := rfl
@[simp] theorem State.setLbx_xfo (s : State) (l : Lbx) : (s.setLbx l).xfo = s.xfo := rfl
@[simp] theorem State.setLbx_pad (s : State) (l : Lbx) : (s.setLbx l).pad = s.pad := rfl
@[simp] theorem State.setLbx_fsg (s : State) (l : Lbx) : (s.setLbx l).fsg = s.fsg := rfl
@[simp] theorem State.setLbx_ctlFault (s : State) (l : Lbx) : (s.setLbx l).ctlFault = s.ctlFault := rfl
@[simp] theorem State.setLbx_env (s : State) (l : Lbx) : (s.setLbx l).env = s.env := rfl
@[simp] theorem State.setLbx_port (s : State) (l : Lbx) : (s.setLbx l).port = s.port := rfl
@[simp] theorem State.setLbx_wdata (s : State) (l : Lbx) : (s.setLbx l).wdata = s.wdata := rfl
@[simp] theorem State.setLbx_answer (s : State) (l : Lbx) : (s.setLbx l).answer = s.answer := rfl
@[simp] theorem State.setLbx_epoch (s : State) (l : Lbx) : (s.setLbx l).epoch = s.epoch := rfl
@[simp] theorem State.setLbx_emu (s : State) (l : Lbx) : (s.setLbx l).emu = s.emu := rfl
@[simp] theorem State.setLbx_disp (s : State) (l : Lbx) : (s.setLbx l).disp = s.disp := rfl
@[simp] theorem State.setLbx_queue (s : State) (l : Lbx) : (s.setLbx l).queue = s.queue := rfl

@[simp] theorem State.setArb_cfg (s : State) (a : Arb) : (s.setArb a).cfg = s.cfg := rfl
@[simp] theorem State.setArb_lbx (s : State) (a : Arb) : (s.setArb a).lbx = s.lbx := rfl
@[simp] theorem State.setArb_arb (s : State) (a : Arb) : (s.setArb a).arb = a := rfl
@[simp] theorem State.setArb_xfo (s : State) (a : Arb) : (s.setArb a).xfo = s.xfo := rfl
@[simp] theorem State.setArb_pad (s : State) (a : Arb) : (s.setArb a).pad = s.pad := rfl
@[simp] theorem State.setArb_fsg (s : State) (a : Arb) : (s.setArb a).fsg = s.fsg := rfl
@[simp] theorem State.setArb_ctlFault (s : State) (a : Arb) : (s.setArb a).ctlFault = s.ctlFault := rfl
@[simp] theorem State.setArb_env (s : State) (a : Arb) : (s.setArb a).env = s.env := rfl
@[simp] theorem State.setArb_port (s : State) (a : Arb) : (s.setArb a).port = s.port := rfl
@[simp] theorem State.setArb_wdata (s : State) (a : Arb) : (s.setArb a).wdata = s.wdata := rfl
@[simp] theorem State.setArb_answer (s : State) (a : Arb) : (s.setArb a).answer = s.answer := rfl
@[simp] theorem State.setArb_epoch (s : State) (a : Arb) : (s.setArb a).epoch = s.epoch := rfl
@[simp] theorem State.setArb_emu (s : State) (a : Arb) : (s.setArb a).emu = s.emu := rfl
@[simp] theorem State.setArb_disp (s : State) (a : Arb) : (s.setArb a).disp = s.disp := rfl
@[simp] theorem State.setArb_queue (s : State) (a : Arb) : (s.setArb a).queue = s.queue := rfl

@[simp] theorem State.setXfo_cfg (s : State) (x : Xfo) : (s.setXfo x).cfg = s.cfg := rfl
@[simp] theorem State.setXfo_lbx (s : State) (x : Xfo) : (s.setXfo x).lbx = s.lbx := rfl
@[simp] theorem State.setXfo_arb (s : State) (x : Xfo) : (s.setXfo x).arb = s.arb := rfl
@[simp] theorem State.setXfo_xfo (s : State) (x : Xfo) : (s.setXfo x).xfo = x := rfl
@[simp] theorem State.setXfo_pad (s : State) (x : Xfo) : (s.setXfo x).pad = s.pad := rfl
@[simp] theorem State.setXfo_fsg (s : State) (x : Xfo) : (s.setXfo x).fsg = s.fsg := rfl
@[simp] theorem State.setXfo_ctlFault (s : State) (x : Xfo) : (s.setXfo x).ctlFault = s.ctlFault := rfl
@[simp] theorem State.setXfo_env (s : State) (x : Xfo) : (s.setXfo x).env = s.env := rfl
@[simp] theorem State.setXfo_port (s : State) (x : Xfo) : (s.setXfo x).port = s.port := rfl
@[simp] theorem State.setXfo_wdata (s : State) (x : Xfo) : (s.setXfo x).wdata = s.wdata := rfl
@[simp] theorem State.setXfo_answer (s : State) (x : Xfo) : (s.setXfo x).answer = s.answer := rfl
@[simp] theorem State.setXfo_epoch (s : State) (x : Xfo) : (s.setXfo x).epoch = s.epoch := rfl
@[simp] theorem State.setXfo_emu (s : State) (x : Xfo) : (s.setXfo x).emu = s.emu := rfl
@[simp] theorem State.setXfo_disp (s : State) (x : Xfo) : (s.setXfo x).disp = s.disp := rfl
@[simp] theorem State.setXfo_queue (s : State) (x : Xfo) : (s.setXfo x).queue = s.queue := rfl

@[simp] theorem State.setPad_cfg (s : State) (p : Pad) : (s.setPad p).cfg = s.cfg := rfl
@[simp] theorem State.setPad_lbx (s : State) (p : Pad) : (s.setPad p).lbx = s.lbx := rfl
@[simp] theorem State.setPad_arb (s : State) (p : Pad) : (s.setPad p).arb = s.arb := rfl
@[simp] theorem State.setPad_xfo (s : State) (p : Pad) : (s.setPad p).xfo = s.xfo := rfl
@[simp] theorem State.setPad_pad (s : State) (p : Pad) : (s.setPad p).pad = p := rfl
@[simp] theorem State.setPad_fsg (s : State) (p : Pad) : (s.setPad p).fsg = s.fsg := rfl
@[simp] theorem State.setPad_ctlFault (s : State) (p : Pad) : (s.setPad p).ctlFault = s.ctlFault := rfl
@[simp] theorem State.setPad_env (s : State) (p : Pad) : (s.setPad p).env = s.env := rfl
@[simp] theorem State.setPad_port (s : State) (p : Pad) : (s.setPad p).port = s.port := rfl
@[simp] theorem State.setPad_wdata (s : State) (p : Pad) : (s.setPad p).wdata = s.wdata := rfl
@[simp] theorem State.setPad_answer (s : State) (p : Pad) : (s.setPad p).answer = s.answer := rfl
@[simp] theorem State.setPad_epoch (s : State) (p : Pad) : (s.setPad p).epoch = s.epoch := rfl
@[simp] theorem State.setPad_emu (s : State) (p : Pad) : (s.setPad p).emu = s.emu := rfl
@[simp] theorem State.setPad_disp (s : State) (p : Pad) : (s.setPad p).disp = s.disp := rfl
@[simp] theorem State.setPad_queue (s : State) (p : Pad) : (s.setPad p).queue = s.queue := rfl

@[simp] theorem State.setFsg_cfg (s : State) (f : Fsg) : (s.setFsg f).cfg = s.cfg := rfl
@[simp] theorem State.setFsg_lbx (s : State) (f : Fsg) : (s.setFsg f).lbx = s.lbx := rfl
@[simp] theorem State.setFsg_arb (s : State) (f : Fsg) : (s.setFsg f).arb = s.arb := rfl
@[simp] theorem State.setFsg_xfo (s : State) (f : Fsg) : (s.setFsg f).xfo = s.xfo := rfl
@[simp] theorem State.setFsg_pad (s : State) (f : Fsg) : (s.setFsg f).pad = s.pad := rfl
@[simp] theorem State.setFsg_fsg (s : State) (f : Fsg) : (s.setFsg f).fsg = f := rfl
@[simp] theorem State.setFsg_ctlFault (s : State) (f : Fsg) : (s.setFsg f).ctlFault = s.ctlFault := rfl
@[simp] theorem State.setFsg_env (s : State) (f : Fsg) : (s.setFsg f).env = s.env := rfl
@[simp] theorem State.setFsg_port (s : State) (f : Fsg) : (s.setFsg f).port = s.port := rfl
@[simp] theorem State.setFsg_wdata (s : State) (f : Fsg) : (s.setFsg f).wdata = s.wdata := rfl
@[simp] theorem State.setFsg_answer (s : State) (f : Fsg) : (s.setFsg f).answer = s.answer := rfl
@[simp] theorem State.setFsg_epoch (s : State) (f : Fsg) : (s.setFsg f).epoch = s.epoch := rfl
@[simp] theorem State.setFsg_emu (s : State) (f : Fsg) : (s.setFsg f).emu = s.emu := rfl
@[simp] theorem State.setFsg_disp (s : State) (f : Fsg) : (s.setFsg f).disp = s.disp := rfl
@[simp] theorem State.setFsg_queue (s : State) (f : Fsg) : (s.setFsg f).queue = s.queue := rfl

@[simp] theorem State.setEnv_cfg (s : State) (e : Env) : (s.setEnv e).cfg = s.cfg := rfl
@[simp] theorem State.setEnv_lbx (s : State) (e : Env) : (s.setEnv e).lbx = s.lbx := rfl
@[simp] theorem State.setEnv_arb (s : State) (e : Env) : (s.setEnv e).arb = s.arb := rfl
@[simp] theorem State.setEnv_xfo (s : State) (e : Env) : (s.setEnv e).xfo = s.xfo := rfl
@[simp] theorem State.setEnv_pad (s : State) (e : Env) : (s.setEnv e).pad = s.pad := rfl
@[simp] theorem State.setEnv_fsg (s : State) (e : Env) : (s.setEnv e).fsg = s.fsg := rfl
@[simp] theorem State.setEnv_ctlFault (s : State) (e : Env) : (s.setEnv e).ctlFault = s.ctlFault := rfl
@[simp] theorem State.setEnv_env (s : State) (e : Env) : (s.setEnv e).env = e := rfl
@[simp] theorem State.setEnv_port (s : State) (e : Env) : (s.setEnv e).port = s.port := rfl
@[simp] theorem State.setEnv_wdata (s : State) (e : Env) : (s.setEnv e).wdata = s.wdata := rfl
@[simp] theorem State.setEnv_answer (s : State) (e : Env) : (s.setEnv e).answer = s.answer := rfl
@[simp] theorem State.setEnv_epoch (s : State) (e : Env) : (s.setEnv e).epoch = s.epoch := rfl
@[simp] theorem State.setEnv_emu (s : State) (e : Env) : (s.setEnv e).emu = s.emu := rfl
@[simp] theorem State.setEnv_disp (s : State) (e : Env) : (s.setEnv e).disp = s.disp := rfl
@[simp] theorem State.setEnv_queue (s : State) (e : Env) : (s.setEnv e).queue = s.queue := rfl

@[simp] theorem State.present_cfg (s : State) (p : Port) (d : Word) : (s.present p d).cfg = s.cfg := rfl
@[simp] theorem State.present_lbx (s : State) (p : Port) (d : Word) : (s.present p d).lbx = s.lbx := rfl
@[simp] theorem State.present_arb (s : State) (p : Port) (d : Word) : (s.present p d).arb = s.arb := rfl
@[simp] theorem State.present_xfo (s : State) (p : Port) (d : Word) : (s.present p d).xfo = s.xfo := rfl
@[simp] theorem State.present_pad (s : State) (p : Port) (d : Word) : (s.present p d).pad = s.pad := rfl
@[simp] theorem State.present_fsg (s : State) (p : Port) (d : Word) : (s.present p d).fsg = s.fsg := rfl
@[simp] theorem State.present_ctlFault (s : State) (p : Port) (d : Word) :
    (s.present p d).ctlFault = s.ctlFault := rfl
@[simp] theorem State.present_env (s : State) (p : Port) (d : Word) : (s.present p d).env = s.env := rfl
@[simp] theorem State.present_port (s : State) (p : Port) (d : Word) : (s.present p d).port = p := rfl
@[simp] theorem State.present_wdata (s : State) (p : Port) (d : Word) : (s.present p d).wdata = d := rfl
@[simp] theorem State.present_answer (s : State) (p : Port) (d : Word) : (s.present p d).answer = s.answer := rfl
@[simp] theorem State.present_epoch (s : State) (p : Port) (d : Word) : (s.present p d).epoch = s.epoch := rfl
@[simp] theorem State.present_emu (s : State) (p : Port) (d : Word) : (s.present p d).emu = s.emu := rfl
@[simp] theorem State.present_disp (s : State) (p : Port) (d : Word) : (s.present p d).disp = s.disp := rfl
@[simp] theorem State.present_queue (s : State) (p : Port) (d : Word) : (s.present p d).queue = s.queue := rfl

@[simp] theorem State.respond_cfg (s : State) (st : Status) (d : Word) : (s.respond st d).cfg = s.cfg := rfl
@[simp] theorem State.respond_lbx (s : State) (st : Status) (d : Word) : (s.respond st d).lbx = s.lbx := rfl
@[simp] theorem State.respond_arb (s : State) (st : Status) (d : Word) : (s.respond st d).arb = s.arb := rfl
@[simp] theorem State.respond_xfo (s : State) (st : Status) (d : Word) : (s.respond st d).xfo = s.xfo := rfl
@[simp] theorem State.respond_pad (s : State) (st : Status) (d : Word) : (s.respond st d).pad = s.pad := rfl
@[simp] theorem State.respond_fsg (s : State) (st : Status) (d : Word) : (s.respond st d).fsg = s.fsg := rfl
@[simp] theorem State.respond_ctlFault (s : State) (st : Status) (d : Word) :
    (s.respond st d).ctlFault = s.ctlFault := rfl
@[simp] theorem State.respond_env (s : State) (st : Status) (d : Word) : (s.respond st d).env = s.env := rfl
@[simp] theorem State.respond_port (s : State) (st : Status) (d : Word) : (s.respond st d).port = s.port := rfl
@[simp] theorem State.respond_wdata (s : State) (st : Status) (d : Word) : (s.respond st d).wdata = s.wdata := rfl
@[simp] theorem State.respond_answer (s : State) (st : Status) (d : Word) :
    (s.respond st d).answer = some { port := s.port, status := st, rdata := d } := rfl
@[simp] theorem State.respond_epoch (s : State) (st : Status) (d : Word) : (s.respond st d).epoch = s.epoch := rfl
@[simp] theorem State.respond_emu (s : State) (st : Status) (d : Word) : (s.respond st d).emu = s.emu := rfl
@[simp] theorem State.respond_disp (s : State) (st : Status) (d : Word) : (s.respond st d).disp = s.disp := rfl
@[simp] theorem State.respond_queue (s : State) (st : Status) (d : Word) : (s.respond st d).queue = s.queue := rfl

@[simp] theorem State.takeFault_cfg (s : State) (c : FaultCode) : (s.takeFault c).cfg = s.cfg := rfl
@[simp] theorem State.takeFault_lbx (s : State) (c : FaultCode) : (s.takeFault c).lbx = s.lbx := rfl
@[simp] theorem State.takeFault_arb (s : State) (c : FaultCode) : (s.takeFault c).arb = s.arb := rfl
@[simp] theorem State.takeFault_xfo (s : State) (c : FaultCode) : (s.takeFault c).xfo = s.xfo := rfl
@[simp] theorem State.takeFault_pad (s : State) (c : FaultCode) : (s.takeFault c).pad = s.pad := rfl
@[simp] theorem State.takeFault_fsg (s : State) (c : FaultCode) : (s.takeFault c).fsg = s.fsg := rfl
@[simp] theorem State.takeFault_ctlFault (s : State) (c : FaultCode) :
    (s.takeFault c).ctlFault = if s.ctlFault = 0 then c.code else s.ctlFault := rfl
@[simp] theorem State.takeFault_env (s : State) (c : FaultCode) : (s.takeFault c).env = s.env := rfl
@[simp] theorem State.takeFault_port (s : State) (c : FaultCode) : (s.takeFault c).port = s.port := rfl
@[simp] theorem State.takeFault_wdata (s : State) (c : FaultCode) : (s.takeFault c).wdata = s.wdata := rfl
@[simp] theorem State.takeFault_answer (s : State) (c : FaultCode) :
    (s.takeFault c).answer = some { port := s.port, status := .fault, rdata := zext (if s.ctlFault = 0 then c.code else s.ctlFault) } := rfl
@[simp] theorem State.takeFault_epoch (s : State) (c : FaultCode) : (s.takeFault c).epoch = s.epoch := rfl
@[simp] theorem State.takeFault_emu (s : State) (c : FaultCode) : (s.takeFault c).emu = s.emu := rfl
@[simp] theorem State.takeFault_disp (s : State) (c : FaultCode) : (s.takeFault c).disp = s.disp := rfl
@[simp] theorem State.takeFault_queue (s : State) (c : FaultCode) : (s.takeFault c).queue = s.queue := rfl

@[simp] theorem State.resetBlock_cfg (s : State) : s.resetBlock.cfg = s.cfg := rfl
@[simp] theorem State.resetBlock_lbx (s : State) : s.resetBlock.lbx = Lbx.reset := rfl
@[simp] theorem State.resetBlock_arb (s : State) : s.resetBlock.arb = Arb.reset := rfl
@[simp] theorem State.resetBlock_xfo (s : State) : s.resetBlock.xfo = Xfo.reset := rfl
@[simp] theorem State.resetBlock_pad (s : State) : s.resetBlock.pad = Pad.reset := rfl
@[simp] theorem State.resetBlock_fsg (s : State) : s.resetBlock.fsg = Fsg.reset := rfl
@[simp] theorem State.resetBlock_ctlFault (s : State) : s.resetBlock.ctlFault = 0 := rfl
@[simp] theorem State.resetBlock_env (s : State) : s.resetBlock.env = s.env := rfl
@[simp] theorem State.resetBlock_port (s : State) : s.resetBlock.port = s.port := rfl
@[simp] theorem State.resetBlock_wdata (s : State) : s.resetBlock.wdata = s.wdata := rfl
@[simp] theorem State.resetBlock_answer (s : State) : s.resetBlock.answer = none := rfl
@[simp] theorem State.resetBlock_epoch (s : State) : s.resetBlock.epoch = s.epoch + 1 := rfl
@[simp] theorem State.resetBlock_emu (s : State) : s.resetBlock.emu = s.emu := rfl
@[simp] theorem State.resetBlock_disp (s : State) : s.resetBlock.disp = s.disp := rfl
@[simp] theorem State.resetBlock_queue (s : State) : s.resetBlock.queue = s.queue := rfl

/-- A setter that writes back what stands there changes nothing. -/
@[simp] theorem State.setLbx_self (s : State) : s.setLbx s.lbx = s := rfl
@[simp] theorem State.setArb_self (s : State) : s.setArb s.arb = s := rfl
@[simp] theorem State.setXfo_self (s : State) : s.setXfo s.xfo = s := rfl
@[simp] theorem State.setPad_self (s : State) : s.setPad s.pad = s := rfl
@[simp] theorem State.setFsg_self (s : State) : s.setFsg s.fsg = s := rfl
@[simp] theorem State.setEnv_self (s : State) : s.setEnv s.env = s := rfl

end Sys2Proof.Machine
end

