-- ==== Sys2Proof/Laws/Ops.lean ====
section
/-! SUPPORT. What each shared operation can do, said once: the ways a command ends, one transaction, one input, one
step. -/

namespace Sys2Proof.Machine

variable {s t : State}

/-! ## The ways a command ends -/

theorem done_next {d : Word} : done d s = .next t ↔ t = s.respond .ok d := by
  simp [done, eq_comm]

theorem retry_next : retry s = .next t ↔ t = s.respond .retry 0 := by
  simp [retry, eq_comm]

theorem raise_next {c : FaultCode} : raise c s = .next t ↔ t = s.takeFault c := by
  simp [raise, eq_comm]

theorem dead_next : dead s = .next t ↔ t = s.respond .fault (zext s.ctlFault) := by
  simp [dead, eq_comm]

/-- The first fault records its own code (R251). -/
theorem State.takeFault_live (c : FaultCode) (h : s.ctlFault = 0) :
    s.takeFault c =
      { s with ctlFault := c.code, answer := some { port := s.port, status := .fault, rdata := zext c.code } } := by
  simp [State.takeFault, h]

/-- Every cause code is one of 0x01 to 0x0D (R252). -/
theorem FaultCode.code_range (c : FaultCode) : 1 ≤ c.code.toNat ∧ c.code.toNat ≤ 0x0D := by
  cases c <;> decide

theorem FaultCode.code_ne_zero (c : FaultCode) : c.code ≠ 0 := by
  cases c <;> decide

/-- Going on after a next state. -/
theorem Result.andThen_next {r : Result} {f : State → State} :
    Result.andThen r f = .next t ↔ ∃ u, r = .next u ∧ t = f u := by
  cases r <;> simp [Result.andThen, eq_comm]

/-! ## One transaction (R93) -/

/-- What serving a command can do: run a command of this port (a live block, or `CTL.FAULT`), answer as a dead block,
or raise ILLEGAL_CMD. -/
theorem serve_next {p : Port} {cmd d : Word} (h : serve p cmd d s = .next t) :
    (∃ i, i.port = p ∧ (s.ctlFault = 0 ∨ i = ctlFaultOf p) ∧ exec i (s.present p d) = .next t) ∨
    (s.ctlFault ≠ 0 ∧ t = (s.present p d).respond .fault (zext s.ctlFault)) ∨
    (s.ctlFault = 0 ∧ t = (s.present p d).takeFault .illegalCmd) := by
  unfold serve at h
  split at h
  · exact .inl ⟨ctlFaultOf p, by cases p <;> rfl, .inr rfl, h⟩
  · unfold dispatchLive at h
    split at h
    · rename_i hf
      exact .inr (.inl ⟨hf, dead_next.1 h⟩)
    · rename_i hf
      have h0 : s.ctlFault = 0 := by simpa using hf
      split at h
      · exact .inr (.inr ⟨h0, raise_next.1 h⟩)
      · split at h
        · rename_i i _ hp
          exact .inl ⟨i, hp, .inl h0, h⟩
        · exact .inr (.inr ⟨h0, raise_next.1 h⟩)

/-- A live block serves a command of the port it arrives on by its meaning (R93 step 4). -/
theorem serve_live {p : Port} {cmd d : Word} {i : Instr} (hd : decode cmd = .ok i) (hp : i.port = p)
    (hf : s.ctlFault = 0) (hc : cmd ≠ encode (ctlFaultOf p)) :
    serve p cmd d s = exec i (s.present p d) := by
  simp [serve, hc, dispatchLive, hf, hd, hp]

/-- `CTL.FAULT` on its own port is served whatever the fault register holds (R93 step 1). -/
theorem serve_ctlFault (p : Port) (d : Word) :
    serve p (encode (ctlFaultOf p)) d s = exec (ctlFaultOf p) (s.present p d) := by
  simp [serve]

/-! ## One move of a client -/

/-- What a move of the emulation core can do. -/
theorem runEmu_next (h : runEmu s = .next t) :
    (s.emu = [] ∧ t = s) ∨
    (∃ k rest i d u, s.emu = k :: rest ∧ k.command = some (i, d) ∧ serve .a (encode i) d s = .next u ∧
      t = emuAnswered k rest u) ∨
    (∃ k rest, s.emu = k :: rest ∧ k.command = none ∧ t = emuLocal k rest s) := by
  unfold runEmu at h
  split at h
  · rename_i he
    exact .inl ⟨he, by simpa [eq_comm] using h⟩
  · rename_i k rest he
    split at h
    · rename_i i d hc
      obtain ⟨u, hu, ht⟩ := Result.andThen_next.1 h
      exact .inr (.inl ⟨k, rest, i, d, u, he, hc, hu, ht⟩)
    · rename_i hc
      exact .inr (.inr ⟨k, rest, he, hc, by simpa [eq_comm] using h⟩)

/-- What a move of the display core can do. -/
theorem runDisp_next (h : runDisp s = .next t) :
    (s.disp = [] ∧ t = s) ∨
    (∃ k rest i d u, s.disp = k :: rest ∧ k.command = some (i, d) ∧ serve .b (encode i) d s = .next u ∧
      t = dispAnswered k rest u) ∨
    (∃ k rest, s.disp = k :: rest ∧ k.command = none ∧ t = dispLocal k rest s) := by
  unfold runDisp at h
  split at h
  · rename_i he
    exact .inl ⟨he, by simpa [eq_comm] using h⟩
  · rename_i k rest he
    split at h
    · rename_i i d hc
      obtain ⟨u, hu, ht⟩ := Result.andThen_next.1 h
      exact .inr (.inl ⟨k, rest, i, d, u, he, hc, hu, ht⟩)
    · rename_i hc
      exact .inr (.inr ⟨k, rest, he, hc, by simpa [eq_comm] using h⟩)

/-- Noting the answer changes the task list only. -/
theorem emuAnswered_eq (k : EmuTask) (rest : List EmuTask) (s : State) :
    ∃ l, emuAnswered k rest s = { s with emu := l } := by
  unfold emuAnswered
  split
  · exact ⟨rest, rfl⟩
  · exact ⟨_, rfl⟩

/-- Noting the answer changes the task list only. -/
theorem dispAnswered_eq (k : DispTask) (rest : List DispTask) (s : State) :
    ∃ l, dispAnswered k rest s = { s with disp := l } := by
  unfold dispAnswered
  split
  · exact ⟨rest, rfl⟩
  · exact ⟨_, rfl⟩

/-- A step of the emulation core's own software changes its task list and the environment only, and the environment
only by `dirty`, `load()` and the catalog. -/
theorem emuLocal_eq (k : EmuTask) (rest : List EmuTask) (s : State) :
    ∃ l e, emuLocal k rest s = { s with emu := l, env := e } ∧
      (e = s.env ∨ e = { s.env with dirty := false } ∨ e = loadSave s.cfg s.env ∨ e = catalogNext s.env ∨
        e = catalogPrev s.env ∨ ∃ base, e = catalogInit s.cfg base s.env) := by
  rcases k with j | work | _
  · cases j
    case load => exact ⟨rest, _, rfl, .inr (.inr (.inl rfl))⟩
    case catalogNext => exact ⟨rest, _, rfl, .inr (.inr (.inr (.inl rfl)))⟩
    case catalogPrev => exact ⟨rest, _, rfl, .inr (.inr (.inr (.inr (.inl rfl))))⟩
    case catalogInit base => exact ⟨_, _, rfl, .inr (.inr (.inr (.inr (.inr ⟨base, rfl⟩))))⟩
    all_goals exact ⟨_, s.env, rfl, .inl rfl⟩
  · exact ⟨rest, s.env, rfl, .inl rfl⟩
  · exact ⟨rest, _, rfl, .inr (.inl rfl)⟩

/-- The top of the display loop changes the task list only. -/
theorem dispLocal_eq (k : DispTask) (rest : List DispTask) (s : State) :
    ∃ l, dispLocal k rest s = { s with disp := l } := by
  cases k <;> exact ⟨_, rfl⟩

/-! ## One step -/

/-- What a step can do: nothing (no input), or what the next input does. -/
theorem step_next (h : step s = .next t) :
    s.cfg.WellFormed ∧
    ((s.queue = [] ∧ t = s) ∨
      ∃ inp rest, s.queue = inp :: rest ∧ handleInput inp { s with queue := rest } = .next t) := by
  unfold step stepInput at h
  split at h
  · rename_i hw
    refine ⟨hw, ?_⟩
    split at h
    · rename_i hq
      exact .inl ⟨hq, by simpa [eq_comm] using h⟩
    · rename_i inp rest hq
      exact .inr ⟨inp, rest, hq, h⟩
  · cases h

/-- A step with the input `inp` first does what that input does. -/
theorem step_input {inp : Input} {rest : List Input} (hw : s.cfg.WellFormed) (hq : s.queue = inp :: rest) :
    step s = handleInput inp { s with queue := rest } := by
  unfold step stepInput
  rw [if_pos hw, hq]

end Sys2Proof.Machine
end

