-- ==== Sys2Proof/Laws/Exec.lean ====
section
/-! SUPPORT. What a command can do, said once: `exec_next` lists, with their guards, the commands that change state and
how; every other next state is the same block with an answer, or a fault. -/

namespace Sys2Proof.Machine

/-- `Effect i s u`: the command `i` changes the state `s` to `u`, before it answers. -/
inductive Effect : Instr → State → State → Prop where
  | acquire (s : State) : Effect .lbxAcquire s (s.setLbx { s.lbx with acq := true })
  | wpix (s : State) (idx : Nat) (ha : s.lbx.acq = true) (hi : idx < s.cfg.visW) :
      Effect (.lbxWpix idx) s
        (s.setLbx (s.lbx.writePixel s.lbx.fillSel (s.cfg.marginL + idx) (pixelOf s.cfg s.wdata)))
  | publish (s : State) (ha : s.lbx.acq = true) (hb : bit0 s.wdata = s.lbx.fillSel) (hv : s.lbx.fltValid = false) :
      Effect .lbxPublish s (s.setLbx { s.lbx with
        fltValid := true, fltSel := s.lbx.fillSel, fillSel := 1 - s.lbx.fillSel, acq := false })
  | giveBack (s : State) (hd : s.fsg.dstate = .streaming) (hv : s.lbx.fltValid = true) :
      Effect .lbxReturn s (s.setLbx { s.lbx with fltValid := false })
  | wsamp (s : State) (idx : Nat) (hi : idx < writable s.cfg s.arb) :
      Effect (.arbWsamp idx) s (s.setArb (s.arb.writeSample (ringPos s.cfg s.arb.wr idx) (pairOf s.wdata)))
  | mixw (s : State) (idx : Nat) (hi : idx < writable s.cfg s.arb) :
      Effect (.arbMixw idx) s (s.setArb (s.arb.writeSample (ringPos s.cfg s.arb.wr idx) (mix s.arb.wave)))
  | advw (s : State) (hn : s.wdata.toNat ≤ writable s.cfg s.arb) :
      Effect .arbAdvw s (s.setArb { s.arb with wr := advance s.cfg s.arb.wr s.wdata.toNat })
  | advr (s : State) (hn : s.wdata.toNat ≤ readable s.cfg s.arb) :
      Effect .arbAdvr s (s.setArb { s.arb with rd := advance s.cfg s.arb.rd s.wdata.toNat })
  | wave (s : State) (idx : Nat) (h1 : 1 ≤ idx) (h5 : idx ≤ 5) :
      Effect (.arbWave idx) s (s.setArb { s.arb with wave := s.arb.wave.set idx (waveOf s.cfg s.wdata) })
  | request (s : State) (hr : s.xfo.req = false) (ha : s.xfo.ack = false) :
      Effect .xfoRequest s (s.setXfo { s.xfo with req := true })
  | flash (s : State) (hr : s.xfo.req = true) (ha : s.xfo.ack = true) (hk : s.wdata.toNat < s.cfg.numSlots) :
      Effect .xfoExec s (s.setEnv (flashSlot s.cfg s.wdata.toNat s.env))
  | release (s : State) (hr : s.xfo.req = true) (ha : s.xfo.ack = true) :
      Effect .xfoRelease s (s.setXfo { s.xfo with req := false })
  | ack (s : State) (hd : s.fsg.dstate = .streaming) (hr : s.xfo.req = true) :
      Effect .xfoAck s
        ((s.setXfo { s.xfo with ack := true }).setFsg { s.fsg with dstate := .parkedForFlash })
  | resume (s : State) (hd : s.fsg.dstate = .parkedForFlash) (hr : s.xfo.req = false) :
      Effect .xfoResume s ((s.setXfo { s.xfo with ack := false }).setFsg { s.fsg with dstate := .streaming })
  | report (s : State) (idx : Nat) (hi : idx ≤ 1) :
      Effect (.padReport idx) s (s.setPad (s.pad.setRaw idx s.wdata))
  | detach (s : State) (idx : Nat) (hi : idx ≤ 1) :
      Effect (.padDetach idx) s (s.setPad (s.pad.setRaw idx Pad.absent))
  | frame (s : State) :
      Effect .fsgFrame s ((s.setPad (framePad s.cfg s.pad)).setFsg
        { s.fsg with gest := frameGest s.cfg s.pad, sys := sysBit (frameGest s.cfg s.pad) })
  | lockGained (s : State) (hd : s.fsg.dstate = .waitValidTiming) (hl : s.fsg.lock = true) :
      Effect .fsgDsync s (s.setFsg { s.fsg with dstate := .streaming })
  | lockLost (s : State) (hd : s.fsg.dstate = .streaming) (hl : s.fsg.lock = false) :
      Effect .fsgDsync s (s.setFsg { s.fsg with dstate := .waitValidTiming })
  | lock (s : State) : Effect .fsgLock s (s.setFsg { s.fsg with lock := decide (bit0 s.wdata = 1) })

/-- Everything a command can do when it gives a next state: answer only, fault, or its effect and then its answer. -/
theorem exec_next {i : Instr} {s t : State} (h : exec i s = .next t) :
    (∃ st d, t = s.respond st d) ∨ (∃ c, t = s.takeFault c) ∨
    (∃ u st d, Effect i s u ∧ t = u.respond st d) := by
  cases i
  case lbxAcquire => exact .inr (.inr ⟨_, _, _, .acquire s, done_next.1 h⟩)
  case lbxWpix idx =>
    simp only [exec, execLbxWpix] at h
    split at h
    · exact .inr (.inl ⟨_, raise_next.1 h⟩)
    · split at h
      · exact .inr (.inl ⟨_, raise_next.1 h⟩)
      · exact .inr (.inr ⟨_, _, _, .wpix s idx (by simp_all) (by omega), done_next.1 h⟩)
  case lbxPublish =>
    simp only [exec, execLbxPublish] at h
    split at h
    · exact .inr (.inl ⟨_, raise_next.1 h⟩)
    · split at h
      · exact .inr (.inl ⟨_, raise_next.1 h⟩)
      · split at h
        · exact .inl ⟨_, _, retry_next.1 h⟩
        · exact .inr (.inr ⟨_, _, _, .publish s (by simp_all) (by simp_all) (by simp_all), done_next.1 h⟩)
  case lbxPoll =>
    simp only [exec, execLbxPoll] at h
    split at h
    · exact .inr (.inl ⟨_, raise_next.1 h⟩)
    · split at h
      · exact .inl ⟨_, _, retry_next.1 h⟩
      · exact .inl ⟨_, _, done_next.1 h⟩
  case lbxRpix idx =>
    simp only [exec, execLbxRpix] at h
    split at h
    · exact .inr (.inl ⟨_, raise_next.1 h⟩)
    · split at h
      · exact .inr (.inl ⟨_, raise_next.1 h⟩)
      · split at h
        · exact .inr (.inl ⟨_, raise_next.1 h⟩)
        · exact .inl ⟨_, _, done_next.1 h⟩
  case lbxReturn =>
    simp only [exec, execLbxReturn] at h
    split at h
    · exact .inr (.inl ⟨_, raise_next.1 h⟩)
    · split at h
      · exact .inr (.inl ⟨_, raise_next.1 h⟩)
      · exact .inr (.inr ⟨_, _, _, .giveBack s (by simp_all) (by simp_all), done_next.1 h⟩)
  case arbWsamp idx =>
    simp only [exec, execArbWsamp] at h
    split at h
    · exact .inr (.inl ⟨_, raise_next.1 h⟩)
    · exact .inr (.inr ⟨_, _, _, .wsamp s idx (by omega), done_next.1 h⟩)
  case arbMixw idx =>
    simp only [exec, execArbMixw] at h
    split at h
    · exact .inr (.inl ⟨_, raise_next.1 h⟩)
    · exact .inr (.inr ⟨_, _, _, .mixw s idx (by omega), done_next.1 h⟩)
  case arbRsamp idx =>
    simp only [exec, execArbRsamp] at h
    split at h
    · exact .inr (.inl ⟨_, raise_next.1 h⟩)
    · exact .inl ⟨_, _, done_next.1 h⟩
  case arbAdvw =>
    simp only [exec, execArbAdvw] at h
    split at h
    · exact .inr (.inl ⟨_, raise_next.1 h⟩)
    · exact .inr (.inr ⟨_, _, _, .advw s (by omega), done_next.1 h⟩)
  case arbAdvr =>
    simp only [exec, execArbAdvr] at h
    split at h
    · exact .inr (.inl ⟨_, raise_next.1 h⟩)
    · exact .inr (.inr ⟨_, _, _, .advr s (by omega), done_next.1 h⟩)
  case arbWave idx =>
    simp only [exec, execArbWave] at h
    split at h
    · exact .inr (.inl ⟨_, raise_next.1 h⟩)
    · exact .inr (.inr ⟨_, _, _, .wave s idx (by omega) (by omega), done_next.1 h⟩)
  case xfoRequest =>
    simp only [exec, execXfoRequest] at h
    split at h
    · exact .inr (.inl ⟨_, raise_next.1 h⟩)
    · exact .inr (.inr ⟨_, _, _, .request s (by simp_all) (by simp_all), done_next.1 h⟩)
  case xfoWaitack =>
    simp only [exec, execXfoWaitack] at h
    split at h
    · exact .inr (.inl ⟨_, raise_next.1 h⟩)
    · split at h
      · exact .inl ⟨_, _, retry_next.1 h⟩
      · exact .inl ⟨_, _, done_next.1 h⟩
  case xfoExec =>
    simp only [exec, execXfoExec] at h
    split at h
    · exact .inr (.inl ⟨_, raise_next.1 h⟩)
    · split at h
      · cases h
      · exact .inr (.inr ⟨_, _, _, .flash s (by simp_all) (by simp_all) (by omega), done_next.1 h⟩)
  case xfoRelease =>
    simp only [exec, execXfoRelease] at h
    split at h
    · exact .inr (.inl ⟨_, raise_next.1 h⟩)
    · exact .inr (.inr ⟨_, _, _, .release s (by simp_all) (by simp_all), done_next.1 h⟩)
  case xfoWaitresume =>
    simp only [exec, execXfoWaitresume] at h
    split at h
    · exact .inr (.inl ⟨_, raise_next.1 h⟩)
    · split at h
      · exact .inl ⟨_, _, retry_next.1 h⟩
      · exact .inl ⟨_, _, done_next.1 h⟩
  case xfoAck =>
    simp only [exec, execXfoAck] at h
    split at h
    · exact .inr (.inl ⟨_, raise_next.1 h⟩)
    · split at h
      · exact .inr (.inl ⟨_, raise_next.1 h⟩)
      · exact .inr (.inr ⟨_, _, _, .ack s (by simp_all) (by simp_all), done_next.1 h⟩)
  case xfoResume =>
    simp only [exec, execXfoResume] at h
    split at h
    · exact .inr (.inl ⟨_, raise_next.1 h⟩)
    · split at h
      · exact .inl ⟨_, _, retry_next.1 h⟩
      · exact .inr (.inr ⟨_, _, _, .resume s (by simp_all) (by simp_all), done_next.1 h⟩)
  case padReport idx =>
    simp only [exec, execPadReport] at h
    split at h
    · exact .inr (.inl ⟨_, raise_next.1 h⟩)
    · exact .inr (.inr ⟨_, _, _, .report s idx (by omega), done_next.1 h⟩)
  case padDetach idx =>
    simp only [exec, execPadDetach] at h
    split at h
    · exact .inr (.inl ⟨_, raise_next.1 h⟩)
    · exact .inr (.inr ⟨_, _, _, .detach s idx (by omega), done_next.1 h⟩)
  case padCur idx =>
    simp only [exec, execPadCur] at h
    split at h
    · exact .inr (.inl ⟨_, raise_next.1 h⟩)
    · exact .inl ⟨_, _, done_next.1 h⟩
  case padRaw idx =>
    simp only [exec, execPadRaw] at h
    split at h
    · exact .inr (.inl ⟨_, raise_next.1 h⟩)
    · exact .inl ⟨_, _, done_next.1 h⟩
  case fsgFrame => exact .inr (.inr ⟨_, _, _, .frame s, done_next.1 h⟩)
  case fsgDsync =>
    simp only [exec, execFsgDsync] at h
    split at h
    · split at h
      · exact .inr (.inr ⟨_, _, _, .lockGained s (by simp_all) (by simp_all), done_next.1 h⟩)
      · exact .inl ⟨_, _, retry_next.1 h⟩
    · split at h
      · exact .inr (.inr ⟨_, _, _, .lockLost s (by simp_all) (by simp_all), retry_next.1 h⟩)
      · exact .inl ⟨_, _, done_next.1 h⟩
    · exact .inl ⟨_, _, done_next.1 h⟩
  case fsgLock => exact .inr (.inr ⟨_, _, _, .lock s, done_next.1 h⟩)
  all_goals exact .inl ⟨_, _, done_next.1 h⟩

/-- No command touches the configuration, the data lines, the clients' tasks, the inputs or the reset count. -/
theorem exec_keeps {i : Instr} {s t : State} (h : exec i s = .next t) :
    t.cfg = s.cfg ∧ t.port = s.port ∧ t.wdata = s.wdata ∧ t.epoch = s.epoch ∧ t.emu = s.emu ∧ t.disp = s.disp ∧
    t.queue = s.queue := by
  rcases exec_next h with ⟨st, d, rfl⟩ | ⟨c, rfl⟩ | ⟨u, st, d, hu, rfl⟩
  · simp
  · simp
  · cases hu <;> simp

end Sys2Proof.Machine
end

