-- ==== Sys2Proof/Laws/Client.lean ====
section
/-! SUPPORT. What a command and a step can do to the environment, said once; and, from it, that a parsed catalog never
changes (R223) and what clears the dirty flag (R222). -/

namespace Sys2Proof.Machine

variable {s t : State}

/-- A command leaves the environment alone, or performs one flash operation (R22, R226). -/
theorem exec_env {i : Instr} (h : exec i s = .next t) : t.env = s.env ∨ ∃ k, t.env = flashSlot s.cfg k s.env := by
  rcases exec_next h with ⟨st, d, rfl⟩ | ⟨c, rfl⟩ | ⟨u, st, d, hu, rfl⟩
  · exact .inl (State.respond_env ..)
  · exact .inl (State.takeFault_env ..)
  · cases hu
    case flash => exact .inr ⟨s.wdata.toNat, rfl⟩
    all_goals exact .inl rfl

/-- A command leaves the tasks of the emulation core alone. -/
theorem exec_emu {i : Instr} (h : exec i s = .next t) : t.emu = s.emu := by
  rcases exec_next h with ⟨st, d, rfl⟩ | ⟨c, rfl⟩ | ⟨u, st, d, hu, rfl⟩
  · rfl
  · exact State.takeFault_emu ..
  · cases hu <;> rfl

/-- Serving a command does to the environment what the command does. -/
theorem serve_env {p : Port} {cmd d : Word} (h : serve p cmd d s = .next t) :
    t.env = s.env ∨ ∃ k, t.env = flashSlot s.cfg k s.env := by
  rcases serve_next h with ⟨i, -, -, he⟩ | ⟨-, rfl⟩ | ⟨-, rfl⟩
  · exact exec_env (s := s.present p d) he
  · exact .inl rfl
  · exact .inl (State.takeFault_env ..)

/-- Serving a command leaves the tasks of the emulation core alone. -/
theorem serve_emu {p : Port} {cmd d : Word} (h : serve p cmd d s = .next t) : t.emu = s.emu := by
  rcases serve_next h with ⟨i, -, -, he⟩ | ⟨-, rfl⟩ | ⟨-, rfl⟩
  · exact exec_emu (s := s.present p d) he
  · rfl
  · exact State.takeFault_emu ..

/-- `EnvMove s e`: what one step can make of the environment of `s`. -/
inductive EnvMove (s : State) : Env → Prop where
  | stays : EnvMove s s.env
  | flash (k : Nat) : EnvMove s (flashSlot s.cfg k s.env)
  | emulatorWrite (off : Nat) (bytes : List Byte) : EnvMove s (s.env.saveWrite off bytes)
  | markDirty : EnvMove s { s.env with dirty := true }
  | task (k : EmuTask) (rest : List EmuTask) (he : s.emu = k :: rest) (hc : k.command = none) :
      EnvMove s (emuLocal k rest s).env

theorem EnvMove.of_command {e : Env} (h : e = s.env ∨ ∃ k, e = flashSlot s.cfg k s.env) : EnvMove s e := by
  rcases h with rfl | ⟨k, rfl⟩
  · exact .stays
  · exact .flash k

/-- Taking the next input off the queue does not change what the emulation core's own software does. -/
theorem emuLocal_env_queue (k : EmuTask) (rest : List EmuTask) (s : State) (q : List Input) :
    (emuLocal k rest { s with queue := q }).env = (emuLocal k rest s).env := by
  rcases k with j | _ | _
  · cases j <;> rfl
  · rfl
  · rfl

/-- Everything a step can do to the environment. -/
theorem step_env (h : step s = .next t) : EnvMove s t.env := by
  obtain ⟨-, ⟨-, rfl⟩ | ⟨inp, q, -, hi⟩⟩ := step_next h
  · exact .stays
  cases inp <;> simp only [handleInput] at hi
  case command => have hv := serve_env hi; exact .of_command hv
  case saveWrite off bytes =>
    unfold emulatorWrite at hi
    split at hi <;> cases hi
    exact .emulatorWrite off bytes
  case markDirty => cases hi; exact .markDirty
  case runEmu =>
    rcases runEmu_next hi with ⟨-, rfl⟩ | ⟨k, rest, i, d, u, -, -, hu, rfl⟩ | ⟨k, rest, he, hc, rfl⟩
    · exact .stays
    · obtain ⟨l, hl⟩ := emuAnswered_eq k rest u
      rw [hl]
      have hv := serve_env hu
      exact .of_command hv
    · rw [emuLocal_env_queue]
      exact .task k rest he hc
  case runDisp =>
    rcases runDisp_next hi with ⟨-, rfl⟩ | ⟨k, rest, i, d, u, -, -, hu, rfl⟩ | ⟨k, rest, -, -, rfl⟩
    · exact .stays
    · obtain ⟨l, hl⟩ := dispAnswered_eq k rest u
      rw [hl]
      have hv := serve_env hu
      exact .of_command hv
    · obtain ⟨l, hl⟩ := dispLocal_eq k rest { s with queue := q }
      rw [hl]
      exact .stays
  all_goals cases hi; exact .stays

/-- A parsed catalog and its mode are immutable: no step changes them (R223). -/
theorem step_keeps_parsed_catalog (hp : s.env.parsed = true) (h : step s = .next t) :
    t.env.parsed = true ∧ t.env.mode = s.env.mode ∧ t.env.catalog = s.env.catalog := by
  have hm := step_env h
  generalize t.env = e at hm
  cases hm with
  | stays | flash _ | emulatorWrite _ _ | markDirty => exact ⟨hp, rfl, rfl⟩
  | task k rest =>
    obtain ⟨l, e, he, rfl | rfl | rfl | rfl | rfl | ⟨base, rfl⟩⟩ := emuLocal_eq k rest s <;> rw [he]
    · exact ⟨hp, rfl, rfl⟩
    · exact ⟨hp, rfl, rfl⟩
    · unfold loadSave; split <;> exact ⟨hp, rfl, rfl⟩
    · unfold catalogNext; split <;> exact ⟨hp, rfl, rfl⟩
    · unfold catalogPrev; split <;> exact ⟨hp, rfl, rfl⟩
    · rw [catalogInit_parsed _ _ _ hp]; exact ⟨hp, rfl, rfl⟩

/-- Only the last task of `save()` and `load()` clear the dirty flag (R222). -/
theorem step_clears_dirty (hd : s.env.dirty = true) (h : step s = .next t) (hc : t.env.dirty = false) :
    ∃ rest, s.emu = .clearDirty :: rest ∨ s.emu = .job .load :: rest := by
  have hm := step_env h
  generalize t.env = e at hm hc
  cases hm with
  | stays | flash _ | emulatorWrite _ _ => cases hd.symm.trans hc
  | markDirty => cases hc
  | task k rest he =>
    refine ⟨rest, ?_⟩
    rw [he]
    have keep : ∀ e : Env, e.dirty = s.env.dirty → e.dirty = false → False := fun e h1 h2 => by simp_all
    rcases k with j | _ | _
    · cases j
      case load => exact .inr rfl
      case catalogNext => exact (keep (catalogNext s.env) (by unfold catalogNext; split <;> rfl) hc).elim
      case catalogPrev => exact (keep (catalogPrev s.env) (by unfold catalogPrev; split <;> rfl) hc).elim
      case catalogInit b _ =>
        exact (keep (catalogInit s.cfg b s.env) (by unfold catalogInit; split <;> rfl) hc).elim
      all_goals exact (keep s.env rfl hc).elim
    · exact (keep s.env rfl hc).elim
    · exact .inl rfl

/-- What is left of an answered task never clears the dirty flag. -/
theorem clearDirty_notMem_after (k : EmuTask) (a : Answer) : .clearDirty ∉ k.after a := by
  rcases k with j | work | _
  · cases j <;> simp only [EmuTask.after, EmuJob.after] <;> try split
    all_goals simp
  · simp [EmuTask.after]
  · simp [EmuTask.after]

/-- Only `save()` sets the task that clears the dirty flag; no input can (R222). -/
theorem step_adds_clearDirty (h : step s = .next t) (hm : .clearDirty ∈ t.emu) :
    .clearDirty ∈ s.emu ∨ ∃ rest, s.emu = .job .save :: rest := by
  obtain ⟨-, ⟨-, rfl⟩ | ⟨inp, q, -, hi⟩⟩ := step_next h
  · exact .inl hm
  cases inp <;> simp only [handleInput] at hi
  case command => exact .inl (by simpa [serve_emu hi] using hm)
  case saveWrite off bytes =>
    unfold emulatorWrite at hi
    split at hi <;> cases hi
    exact .inl hm
  case emuWork jobs => cases hi; exact .inl (by simpa using hm)
  case runEmu =>
    rcases runEmu_next hi with ⟨-, rfl⟩ | ⟨k, rest, i, d, u, he, -, hu, rfl⟩ | ⟨k, rest, he, -, rfl⟩
    · exact .inl hm
    · change s.emu = k :: rest at he
      left
      rw [he]
      unfold emuAnswered at hm
      split at hm
      · exact List.mem_cons_of_mem _ hm
      · rename_i a _
        simp only at hm
        split at hm
        · cases hm
        · rcases List.mem_append.1 hm with h1 | h1
          · exact (clearDirty_notMem_after k a h1).elim
          · exact List.mem_cons_of_mem _ h1
    · change s.emu = k :: rest at he
      rw [he]
      rcases k with j | _ | _
      · cases j
        case save => exact .inr ⟨rest, rfl⟩
        case catalogInit b =>
          simp only [emuLocal] at hm
          split at hm
          · cases hm
          · exact .inl (List.mem_cons_of_mem _ hm)
        all_goals exact .inl (List.mem_cons_of_mem _ hm)
      · exact .inl (List.mem_cons_of_mem _ hm)
      · exact .inl (List.mem_cons_self ..)
  case runDisp =>
    rcases runDisp_next hi with ⟨-, rfl⟩ | ⟨k, rest, i, d, u, -, -, hu, rfl⟩ | ⟨k, rest, -, -, rfl⟩
    · exact .inl hm
    · obtain ⟨l, hl⟩ := dispAnswered_eq k rest u
      rw [hl] at hm
      exact .inl (by simpa [serve_emu hu] using hm)
    · obtain ⟨l, hl⟩ := dispLocal_eq k rest { s with queue := q }
      rw [hl] at hm
      exact .inl hm
  all_goals cases hi; exact .inl hm

end Sys2Proof.Machine
end

