-- ==== Sys2Proof/Laws/Decode.lean ====
section
/-! SUPPORT. The fields of a composed word, and the word of its fields (R91). -/

namespace Sys2Proof

/-- Composing a word and taking its fields gives the fields back (R91). -/
theorem fieldsOf_wordOf (f : Fields) : fieldsOf (wordOf f) = f := by
  obtain ⟨p, u, n, x⟩ := f
  simp only [fieldsOf, wordOf, Fields.mk.injEq]
  refine ⟨?_, ?_, ?_, ?_⟩ <;>
    · apply BitVec.eq_of_getLsbD_eq
      intro i hi
      rw [BitVec.getLsbD_extractLsb']
      simp only [BitVec.getLsbD_append]
      rw [decide_eq_true hi, Bool.true_and]
      repeat' split
      all_goals first | omega | skip
      all_goals congr 1; omega

/-- A word is the composition of its fields (R91). -/
theorem wordOf_fieldsOf (w : Word) : wordOf (fieldsOf w) = w := by
  apply BitVec.eq_of_getLsbD_eq
  intro i hi
  simp only [wordOf, fieldsOf, BitVec.getLsbD_append, BitVec.getLsbD_extractLsb']
  repeat' split
  all_goals
    rw [decide_eq_true (by omega), Bool.true_and]
    congr 1
    omega

/-- The fields of a word written as an upper and a lower half: the upper half holds PORT, UNIT and FN, the lower half
is IDX (R91). -/
theorem fieldsOf_append (hi lo : BitVec 16) :
    fieldsOf (hi ++ lo) = ⟨hi.extractLsb' 12 4, hi.extractLsb' 8 4, hi.extractLsb' 0 8, lo⟩ := by
  rw [← fieldsOf_wordOf ⟨hi.extractLsb' 12 4, hi.extractLsb' 8 4, hi.extractLsb' 0 8, lo⟩]
  congr 1
  apply BitVec.eq_of_getLsbD_eq
  intro i hi'
  simp only [wordOf, BitVec.getLsbD_append, BitVec.getLsbD_extractLsb']
  repeat' split
  all_goals first
    | rfl
    | (rw [decide_eq_true (by omega), Bool.true_and]; congr 1; omega)

end Sys2Proof
end

