-- ==== Sys2Proof/Laws/PerInstr.lean ====
section
/-! SUPPORT. Per-instruction families: one lemma per constructor of `Instr`. -/

namespace Sys2Proof.Laws.PortNibble

/-- Bits 31:28 of a command's word are the number of the port whose command it is (R91, R95). -/
def Statement (i : Instr) : Prop := (encode i).extractLsb' 28 4 = i.port.number

/-- The PORT field of a composed word is the field it was composed from. -/
theorem of_fields (i : Instr) : Statement i := congrArg Fields.port (fieldsOf_wordOf _)

theorem lbxAcquire : Statement .lbxAcquire := of_fields _
theorem lbxWpix (idx : Nat) : Statement (.lbxWpix idx) := of_fields _
theorem lbxPublish : Statement .lbxPublish := of_fields _
theorem lbxStatusA : Statement .lbxStatusA := of_fields _
theorem arbWsize : Statement .arbWsize := of_fields _
theorem arbWptr : Statement .arbWptr := of_fields _
theorem arbWsamp (idx : Nat) : Statement (.arbWsamp idx) := of_fields _
theorem arbAdvw : Statement .arbAdvw := of_fields _
theorem arbWave (idx : Nat) : Statement (.arbWave idx) := of_fields _
theorem arbMixw (idx : Nat) : Statement (.arbMixw idx) := of_fields _
theorem xfoRequest : Statement .xfoRequest := of_fields _
theorem xfoWaitack : Statement .xfoWaitack := of_fields _
theorem xfoExec : Statement .xfoExec := of_fields _
theorem xfoRelease : Statement .xfoRelease := of_fields _
theorem xfoWaitresume : Statement .xfoWaitresume := of_fields _
theorem xfoStatusA : Statement .xfoStatusA := of_fields _
theorem padCur (idx : Nat) : Statement (.padCur idx) := of_fields _
theorem padPushed : Statement .padPushed := of_fields _
theorem padRaw (idx : Nat) : Statement (.padRaw idx) := of_fields _
theorem fsgFrame : Statement .fsgFrame := of_fields _
theorem fsgGest : Statement .fsgGest := of_fields _
theorem fsgSys : Statement .fsgSys := of_fields _
theorem fsgDstateA : Statement .fsgDstateA := of_fields _
theorem ctlFaultA : Statement .ctlFaultA := of_fields _
theorem lbxPoll : Statement .lbxPoll := of_fields _
theorem lbxRpix (idx : Nat) : Statement (.lbxRpix idx) := of_fields _
theorem lbxReturn : Statement .lbxReturn := of_fields _
theorem lbxStatusB : Statement .lbxStatusB := of_fields _
theorem arbRsize : Statement .arbRsize := of_fields _
theorem arbRptr : Statement .arbRptr := of_fields _
theorem arbRsamp (idx : Nat) : Statement (.arbRsamp idx) := of_fields _
theorem arbAdvr : Statement .arbAdvr := of_fields _
theorem xfoIsexist : Statement .xfoIsexist := of_fields _
theorem xfoAck : Statement .xfoAck := of_fields _
theorem xfoResume : Statement .xfoResume := of_fields _
theorem xfoStatusB : Statement .xfoStatusB := of_fields _
theorem fsgDsync : Statement .fsgDsync := of_fields _
theorem fsgDstateB : Statement .fsgDstateB := of_fields _
theorem ctlFaultB : Statement .ctlFaultB := of_fields _
theorem padReport (idx : Nat) : Statement (.padReport idx) := of_fields _
theorem padDetach (idx : Nat) : Statement (.padDetach idx) := of_fields _
theorem fsgLock : Statement .fsgLock := of_fields _
theorem ctlFaultX : Statement .ctlFaultX := of_fields _

end Sys2Proof.Laws.PortNibble
end

