-- ==== Sys2Proof/Laws/Ring.lean ====
section
/-! SUPPORT. The ring arithmetic of R30: what an advance does to the sizes, and that the two windows are disjoint. -/

namespace Sys2Proof.Machine

/-- The number of unread pairs, without integers: the cursors as they count modulo `2*RING_N` (R30). -/
theorem unread_eq {c : Config} {a : Arb} (hw : a.wr < 2 * c.ringN) (hr : a.rd < 2 * c.ringN) :
    unread c a = if a.rd ≤ a.wr then a.wr - a.rd else a.wr + 2 * c.ringN - a.rd := by
  unfold unread
  split
  · rename_i h
    rw [Int.emod_eq_of_lt (by omega) (by omega)]
    omega
  · rename_i h
    rw [← Int.add_emod_right, Int.emod_eq_of_lt (by omega) (by omega)]
    omega

/-- A cursor moves modulo `2*RING_N` (R133, R139). -/
theorem advance_eq {c : Config} {k n : Nat} (hk : k < 2 * c.ringN) (hn : n ≤ 2 * c.ringN) :
    advance c k n = if k + n < 2 * c.ringN then k + n else k + n - 2 * c.ringN := by
  unfold advance
  split
  · rename_i h
    exact Nat.mod_eq_of_lt h
  · rename_i h
    rw [Nat.mod_eq_sub_mod (by omega), Nat.mod_eq_of_lt (by omega)]

theorem advance_lt {c : Config} (h : 1 ≤ c.ringN) (k n : Nat) : advance c k n < 2 * c.ringN :=
  Nat.mod_lt _ (by omega)

/-- Advancing the write cursor by at most `writable` adds that many unread pairs (R133). -/
theorem unread_advanceWrite {c : Config} {a : Arb} (hw : a.wr < 2 * c.ringN) (hr : a.rd < 2 * c.ringN)
    (hu : unread c a ≤ c.ringN) {n : Nat} (hn : n ≤ writable c a) :
    unread c { a with wr := advance c a.wr n } = unread c a + n := by
  have hn' : n ≤ c.ringN - unread c a := hn
  have ha := advance_eq (c := c) hw (n := n) (by omega)
  have hl : advance c a.wr n < 2 * c.ringN := advance_lt (by omega) _ _
  have e1 := unread_eq (c := c) (a := a) hw hr
  have e2 := unread_eq (c := c) (a := { a with wr := advance c a.wr n }) hl hr
  simp only at e2
  split at e1 <;> split at e2 <;> split at ha <;> omega

/-- Advancing the read cursor by at most `readable` removes that many unread pairs (R139). -/
theorem unread_advanceRead {c : Config} {a : Arb} (hw : a.wr < 2 * c.ringN) (hr : a.rd < 2 * c.ringN)
    (hu : unread c a ≤ c.ringN) {n : Nat} (hn : n ≤ readable c a) :
    unread c { a with rd := advance c a.rd n } = unread c a - n := by
  have hn' : n ≤ unread c a := hn
  have ha := advance_eq (c := c) hr (n := n) (by omega)
  have hl : advance c a.rd n < 2 * c.ringN := advance_lt (by omega) _ _
  have e1 := unread_eq (c := c) (a := a) hw hr
  have e2 := unread_eq (c := c) (a := { a with rd := advance c a.rd n }) hw hl
  simp only at e2
  split at e1 <;> split at e2 <;> split at ha <;> omega

/-- The ring position of an offset, counted from the read cursor (R30, R31). -/
theorem ringPos_add {c : Config} (k i j : Nat) : ringPos c (k + i) j = ringPos c k (i + j) := by
  unfold ringPos
  rw [Nat.add_assoc]

/-- The write cursor names the position `unread` places behind the read cursor (R30). -/
theorem ringPos_wr {c : Config} {a : Arb} (hw : a.wr < 2 * c.ringN) (hr : a.rd < 2 * c.ringN) (i : Nat) :
    ringPos c a.wr i = ringPos c a.rd (unread c a + i) := by
  have e := unread_eq (c := c) (a := a) hw hr
  unfold ringPos
  split at e
  · rw [e]
    congr 1
    omega
  · rw [e, show a.rd + (a.wr + 2 * c.ringN - a.rd + i) = a.wr + i + c.ringN * 2 by omega,
      Nat.add_mul_mod_self_left]

/-- Two offsets below RING_N from one cursor name different positions (R31). -/
theorem ringPos_inj {c : Config} {k i j : Nat} (hi : i < c.ringN) (hj : j < c.ringN)
    (h : ringPos c k i = ringPos c k j) : i = j := by
  have hm : i ≡ j [MOD c.ringN] := Nat.ModEq.add_left_cancel' k h
  rwa [Nat.ModEq, Nat.mod_eq_of_lt hi, Nat.mod_eq_of_lt hj] at hm

/-- "The two windows are disjoint" (R31): no writable offset names a readable position. -/
theorem windows_disjoint {c : Config} {a : Arb} (hw : a.wr < 2 * c.ringN) (hr : a.rd < 2 * c.ringN)
    (hu : unread c a ≤ c.ringN) {i j : Nat} (hi : i < writable c a) (hj : j < readable c a) :
    ringPos c a.wr i ≠ ringPos c a.rd j := by
  have hi' : i < c.ringN - unread c a := hi
  have hj' : j < unread c a := hj
  rw [ringPos_wr hw hr]
  intro h
  have := ringPos_inj (by omega) (by omega) h
  omega

/-- A moved cursor names the same positions, offset by the move (R133, R139). -/
theorem ringPos_advance {c : Config} (k n i : Nat) : ringPos c (advance c k n) i = ringPos c k (n + i) := by
  unfold ringPos advance
  have h : (k + n) % (2 * c.ringN) ≡ k + n [MOD c.ringN] :=
    (Nat.mod_modEq (k + n) (2 * c.ringN)).of_mul_left 2
  have := Nat.ModEq.add_right i h
  rw [Nat.ModEq] at this
  rw [this, Nat.add_assoc]

theorem ringPos_lt {c : Config} (h : 1 ≤ c.ringN) (k i : Nat) : ringPos c k i < c.ringN := Nat.mod_lt _ (by omega)

end Sys2Proof.Machine
end

