-- ==== Sys2Proof/Tests/Slice0.lean ====
section
/-! SUPPORT. Small tests: the well-formedness smoke tests, one written-out word for every constructor, one step of each
command on a small state with the expected answer taken from the spec's rules and vectors (`95_test_vectors.md`), and
for each statement of `Certificates/Slice0/Obligations.lean` that has hypotheses a witness that meets them. -/

namespace Sys2Proof.Tests

open Sys2Proof.Machine

/-! ## Helpers -/

/-- A command word from its four fields, most significant first (R91). -/
def bits (port unit : BitVec 4) (fn : BitVec 8) (idx : BitVec 16) : Word := port ++ unit ++ fn ++ idx

/-- The answer a result carries. -/
def answerOf (r : Result) : Option (Status × Word) :=
  match r with
  | .next s => s.answer.map (fun a => (a.status, a.rdata))
  | .fault _ => none
  | .refused _ => none

/-- One part of the state a result carries. -/
def partOf (f : State → α) (r : Result) : Option α :=
  match r with
  | .next s => some (f s)
  | .fault _ => none
  | .refused _ => none

/-- The state after reset with data word `d` on the data lines. -/
def idle (d : Word := 0) : State := { State.reset with wdata := d }

/-- Buffer 0 acquired. -/
def filling (d : Word := 0) : State := { idle d with lbx := { Lbx.reset with acq := true } }

/-- The display core streams, nothing in flight. -/
def streaming (d : Word := 0) : State := { idle d with fsg := { Fsg.reset with dstate := .streaming, lock := true } }

/-- Buffer 0 in flight while the display core streams, buffer 1 acquired, pixel 35 of buffer 0 written. -/
def inFlight (d : Word := 0) : State :=
  { streaming d with
    lbx := { fillSel := 1, acq := true, fltValid := true, fltSel := 0, pix0 := [(35, 0x5678)], pix1 := [] } }

/-- The given ring cursors, and the given pairs stored. -/
def ring (wr rd : Nat) (samp : Store SamplePair) (d : Word := 0) : State :=
  { idle d with arb := { Arb.reset with wr := wr, rd := rd, samp := samp } }

/-- A configuration with two-byte slots, so that a flash operation is short. -/
def small : Config := { Config.vectors with nvBase := 16, slotSize := 2, eraseBlock := 1 }

/-- The latch with the given flags; the display core is parked exactly when the acknowledge flag is set. -/
def latch (req ack : Bool) (d : Word := 0) : State :=
  { streaming d with
    cfg := small
    xfo := ⟨req, ack⟩
    fsg := { Fsg.reset with dstate := if ack then .parkedForFlash else .streaming, lock := true }
    env := { Env.initial with save := [(0, 0xA5), (1, 0x5A)] } }

/-- The block after a first fault with code 0x01. -/
def deadBlock : State := { idle with ctlFault := 1 }

/-- A state whose next input is a command. -/
def withInput (s : State) (p : Port) (w d : Word) : State := { s with queue := [.command p w d] }

/-! ## Well-formedness (R91, R94) -/

/-- Every operand that does not fit the IDX field is refused. -/
theorem test_wf_refuses_wide_operands :
    [Instr.lbxWpix 65536, .arbWsamp 65536, .arbWave 65536, .arbMixw 65536, .padCur 65536, .padRaw 65536,
      .lbxRpix 65536, .arbRsamp 65536, .padReport 65536, .padDetach 65536].all (fun i => !i.wf) = true := by
  decide

/-- The largest operand is accepted. -/
theorem test_wf_accepts_sixteen_bits :
    [Instr.lbxWpix 65535, .arbWsamp 65535, .arbWave 65535, .arbMixw 65535, .padCur 65535, .padRaw 65535,
      .lbxRpix 65535, .arbRsamp 65535, .padReport 65535, .padDetach 65535, .xfoExec].all Instr.wf = true := by
  decide

/-- Whether the machine accepts a configuration (R8). -/
def accepts (c : Config) : Bool := decide c.WellFormed

/-- Section 2.7 (a): (8192, 4096), (4096, 4096) and (12288, 4096) accepted. -/
theorem test_config_accepts :
    accepts Config.vectors = true ∧ accepts { Config.vectors with slotSize := 4096 } = true ∧
    accepts { Config.vectors with slotSize := 12288 } = true := by
  decide

/-- Section 2.7 (a): (6144, 4096) and (2048, 4096) rejected (R8). -/
theorem test_config_rejects_slot_size :
    accepts { Config.vectors with slotSize := 6144 } = false ∧
    accepts { Config.vectors with slotSize := 2048 } = false := by
  decide

/-- One ill-formed configuration for each further check of R7. -/
theorem test_config_rejects_each_constraint :
    [{ Config.vectors with pixelW := 0 }, { Config.vectors with pixelW := 33 }, { Config.vectors with lineW := 287 },
      { Config.vectors with lineW := 65537 }, { Config.vectors with ringN := 0 },
      { Config.vectors with ringN := 65537 }, { Config.vectors with waveW := 0 }, { Config.vectors with waveW := 17 },
      { Config.vectors with mUp := 0x30 }, { Config.vectors with mB := 0x01 }, { Config.vectors with slotSize := 0 },
      { Config.vectors with nvBase := 0x10080001 }, { Config.vectors with numSlots := 65536 },
      { Config.vectors with headerSize := 3 }, { Config.vectors with slotOf := [some 8] }].all
        (fun c => !accepts c) = true := by
  decide

/-! ## Decoding: every constructor's word, bit by bit (R91, R95) -/

/-- Unit LBX on port A (R91, R95, R110 to R116). -/
theorem test_decode_lbx_a :
    decode (bits 0b0000 0b0000 0b00000000 0b0000000000000000) = .ok .lbxAcquire ∧
    decode (bits 0b0000 0b0000 0b00000001 0b0000000011111111) = .ok (.lbxWpix 255) ∧
    decode (bits 0b0000 0b0000 0b00000010 0b0000000000000000) = .ok .lbxPublish ∧
    decode (bits 0b0000 0b0000 0b00000011 0b0000000000000000) = .ok .lbxStatusA := by
  decide

/-- Unit ARB on port A (R91, R95, R130 to R139). -/
theorem test_decode_arb_a :
    decode (bits 0b0000 0b0001 0b00000000 0b0000000000000000) = .ok .arbWsize ∧
    decode (bits 0b0000 0b0001 0b00000001 0b0000000000000000) = .ok .arbWptr ∧
    decode (bits 0b0000 0b0001 0b00000010 0b0000000000000011) = .ok (.arbWsamp 3) ∧
    decode (bits 0b0000 0b0001 0b00000011 0b0000000000000000) = .ok .arbAdvw ∧
    decode (bits 0b0000 0b0001 0b00000100 0b0000000000000101) = .ok (.arbWave 5) ∧
    decode (bits 0b0000 0b0001 0b00000101 0b1111111111111111) = .ok (.arbMixw 65535) := by
  decide

/-- Unit XFO on port A (R91, R95, R155 to R163). -/
theorem test_decode_xfo_a :
    decode (bits 0b0000 0b0010 0b00000000 0b0000000000000000) = .ok .xfoRequest ∧
    decode (bits 0b0000 0b0010 0b00000001 0b0000000000000000) = .ok .xfoWaitack ∧
    decode (bits 0b0000 0b0010 0b00000010 0b0000000000000000) = .ok .xfoExec ∧
    decode (bits 0b0000 0b0010 0b00000011 0b0000000000000000) = .ok .xfoRelease ∧
    decode (bits 0b0000 0b0010 0b00000100 0b0000000000000000) = .ok .xfoWaitresume ∧
    decode (bits 0b0000 0b0010 0b00000101 0b0000000000000000) = .ok .xfoStatusA := by
  decide

/-- Unit PAD on port A (R91, R95, R175 to R179). -/
theorem test_decode_pad_a :
    decode (bits 0b0000 0b0011 0b00000000 0b0000000000000001) = .ok (.padCur 1) ∧
    decode (bits 0b0000 0b0011 0b00000001 0b0000000000000000) = .ok .padPushed ∧
    decode (bits 0b0000 0b0011 0b00000010 0b0000000000000001) = .ok (.padRaw 1) := by
  decide

/-- Unit FSG on port A (R91, R95, R200 to R205). -/
theorem test_decode_fsg_a :
    decode (bits 0b0000 0b0100 0b00000000 0b0000000000000000) = .ok .fsgFrame ∧
    decode (bits 0b0000 0b0100 0b00000001 0b0000000000000000) = .ok .fsgGest ∧
    decode (bits 0b0000 0b0100 0b00000010 0b0000000000000000) = .ok .fsgSys ∧
    decode (bits 0b0000 0b0100 0b00000011 0b0000000000000000) = .ok .fsgDstateA := by
  decide

/-- Unit CTL on port A (R91, R95, R255). -/
theorem test_decode_ctl_a :
    decode (bits 0b0000 0b1111 0b00000000 0b0000000000000000) = .ok .ctlFaultA := by
  decide

/-- Unit LBX on port B (R91, R95, R110 to R116). -/
theorem test_decode_lbx_b :
    decode (bits 0b0001 0b0000 0b00000000 0b0000000000000000) = .ok .lbxPoll ∧
    decode (bits 0b0001 0b0000 0b00000001 0b0000000100111111) = .ok (.lbxRpix 319) ∧
    decode (bits 0b0001 0b0000 0b00000010 0b0000000000000000) = .ok .lbxReturn ∧
    decode (bits 0b0001 0b0000 0b00000011 0b0000000000000000) = .ok .lbxStatusB := by
  decide

/-- Unit ARB on port B (R91, R95, R130 to R139). -/
theorem test_decode_arb_b :
    decode (bits 0b0001 0b0001 0b00000000 0b0000000000000000) = .ok .arbRsize ∧
    decode (bits 0b0001 0b0001 0b00000001 0b0000000000000000) = .ok .arbRptr ∧
    decode (bits 0b0001 0b0001 0b00000010 0b0000000000000011) = .ok (.arbRsamp 3) ∧
    decode (bits 0b0001 0b0001 0b00000011 0b0000000000000000) = .ok .arbAdvr := by
  decide

/-- Unit XFO on port B (R91, R95, R155 to R163). -/
theorem test_decode_xfo_b :
    decode (bits 0b0001 0b0010 0b00000000 0b0000000000000000) = .ok .xfoIsexist ∧
    decode (bits 0b0001 0b0010 0b00000001 0b0000000000000000) = .ok .xfoAck ∧
    decode (bits 0b0001 0b0010 0b00000010 0b0000000000000000) = .ok .xfoResume ∧
    decode (bits 0b0001 0b0010 0b00000101 0b0000000000000000) = .ok .xfoStatusB := by
  decide

/-- Unit FSG on port B (R91, R95, R200 to R205). -/
theorem test_decode_fsg_b :
    decode (bits 0b0001 0b0100 0b00000000 0b0000000000000000) = .ok .fsgDsync ∧
    decode (bits 0b0001 0b0100 0b00000011 0b0000000000000000) = .ok .fsgDstateB := by
  decide

/-- Unit CTL on port B (R91, R95, R255). -/
theorem test_decode_ctl_b :
    decode (bits 0b0001 0b1111 0b00000000 0b0000000000000000) = .ok .ctlFaultB := by
  decide

/-- Unit PAD on port X (R91, R95, R175 to R179). -/
theorem test_decode_pad_x :
    decode (bits 0b0010 0b0011 0b00000000 0b0000000000000001) = .ok (.padReport 1) ∧
    decode (bits 0b0010 0b0011 0b00000001 0b0000000000000001) = .ok (.padDetach 1) := by
  decide

/-- Unit FSG on port X (R91, R95, R200 to R205). -/
theorem test_decode_fsg_x :
    decode (bits 0b0010 0b0100 0b00000000 0b0000000000000000) = .ok .fsgLock := by
  decide

/-- Unit CTL on port X (R91, R95, R255). -/
theorem test_decode_ctl_x :
    decode (bits 0b0010 0b1111 0b00000000 0b0000000000000000) = .ok .ctlFaultX := by
  decide

/-- R96: reserved ports, reserved units, unlisted functions, and IDX in a format N word. -/
theorem test_decode_illegal :
    decode 0x30000000 = .error .reservedPort ∧ decode 0xF0000000 = .error .reservedPort ∧
    decode 0x05000000 = .error .reservedUnit ∧ decode 0x0E000000 = .error .reservedUnit ∧
    decode 0x00040000 = .error .unlistedFn ∧ decode 0x12030000 = .error .unlistedFn ∧
    decode 0x20000000 = .error .unlistedFn ∧ decode 0x0F010000 = .error .unlistedFn ∧
    decode 0x00000001 = .error .nonzeroIdx ∧ decode 0x24008000 = .error .nonzeroIdx := by
  decide

/-- Another width than 32 bits is not an instruction (R97); a table word of zeros above its bits is. -/
theorem test_decode_table_word :
    decodeTableWord 32 0x00010005 = some (.lbxWpix 5) ∧ decodeTableWord 32 0x05000000 = none ∧
    decodeTableWord 40 0x00010005 = none := by
  decide

/-- The encoder gives the words of the spec's examples (R98). -/
theorem test_encode :
    encode (.lbxWpix 5) = 0x00010005 ∧ encode (.arbMixw 3) = 0x01050003 ∧ encode .xfoWaitresume = 0x02040000 ∧
    encode (.padReport 1) = 0x23000001 ∧ encode .ctlFaultX = 0x2F000000 := by
  decide

/-! ## Reset (R281): the first command's answer -/

theorem test_reset_first_answers :
    answerOf (exec .lbxAcquire idle) = some (.ok, 0) ∧ answerOf (exec .lbxStatusA idle) = some (.ok, 0) ∧
    answerOf (exec .arbWsize idle) = some (.ok, 4) ∧ answerOf (exec .arbRsize idle) = some (.ok, 0) ∧
    answerOf (exec .xfoStatusA idle) = some (.ok, 0) ∧ answerOf (exec .xfoIsexist idle) = some (.ok, 0) ∧
    answerOf (exec (.padCur 0) idle) = some (.ok, 0) ∧ answerOf (exec (.padRaw 0) idle) = some (.ok, 0x00808080) ∧
    answerOf (exec .fsgGest idle) = some (.ok, 0) ∧ answerOf (exec .fsgDstateB idle) = some (.ok, 0) ∧
    answerOf (exec .fsgDsync idle) = some (.retry, 0) ∧ answerOf (exec .lbxPoll idle) = some (.fault, 5) ∧
    answerOf (exec .ctlFaultA idle) = some (.ok, 0) := by
  decide

/-! ## Unit LBX (section 2.1) -/

theorem test_acquire : answerOf (exec .lbxAcquire (inFlight)) = some (.ok, 1) := by decide

/-- Section 2.1 (a) step 3: `pix[0][35] <- 0x1234`. -/
theorem test_wpix_truncates :
    partOf (fun t => t.lbx.pix0) (exec (.lbxWpix 3) (filling 0xFFFF1234)) = some [(35, 0x1234)] := by decide

/-- Section 2.1 (b), (d). -/
theorem test_wpix_faults :
    answerOf (exec (.lbxWpix 256) filling) = some (.fault, 0x0D) ∧
    answerOf (exec (.lbxWpix 256) idle) = some (.fault, 0x03) := by decide

/-- Section 2.1 (a) step 6: only `wdata[0]` names the buffer. -/
theorem test_publish :
    partOf (fun t => (t.lbx.fltValid, t.lbx.fltSel, t.lbx.fillSel, t.lbx.acq))
      (exec .lbxPublish (filling 0xFFFFFFFE)) = some (true, 0, 1, false) := by decide

/-- Section 2.1 (c), (d): RETRY, wrong buffer, not acquired. -/
theorem test_publish_checks :
    answerOf (exec .lbxPublish (inFlight 1)) = some (.retry, 0) ∧
    answerOf (exec .lbxPublish (inFlight 0)) = some (.fault, 0x02) ∧
    answerOf (exec .lbxPublish idle) = some (.fault, 0x01) := by decide

/-- Section 2.1 (c): `LBX.STATUS = 0x7`. -/
theorem test_lbx_status :
    answerOf (exec .lbxStatusA inFlight) = some (.ok, 7) ∧ answerOf (exec .lbxStatusB inFlight) = some (.ok, 7) := by
  decide

theorem test_poll :
    answerOf (exec .lbxPoll inFlight) = some (.ok, 0) ∧ answerOf (exec .lbxPoll streaming) = some (.retry, 0) := by
  decide

/-- Section 2.1 (a) step 12, (b). -/
theorem test_rpix :
    answerOf (exec (.lbxRpix 35) inFlight) = some (.ok, 0x5678) ∧
    answerOf (exec (.lbxRpix 320) inFlight) = some (.fault, 0x0D) := by decide

theorem test_return :
    partOf (fun t => (t.lbx.fltValid, t.lbx.pix0)) (exec .lbxReturn inFlight) = some (false, [(35, 0x5678)]) ∧
    answerOf (exec .lbxReturn streaming) = some (.fault, 0x04) := by decide

/-! ## Unit ARB (section 2.2) -/

/-- Section 2.2 (a) steps 11 to 14. -/
theorem test_ring_reads :
    answerOf (exec .arbWsize (ring 6 2 [])) = some (.ok, 0) ∧ answerOf (exec .arbWptr (ring 6 2 [])) = some (.ok, 2) ∧
    answerOf (exec .arbRsize (ring 6 2 [])) = some (.ok, 4) ∧ answerOf (exec .arbRptr (ring 6 2 [])) = some (.ok, 2) := by
  decide

/-- Section 2.2 (a) step 9: the offset wraps, the right channel is in the high half. -/
theorem test_wsamp :
    partOf (fun t => t.arb.samp) (exec (.arbWsamp 2) (ring 3 2 [] 0x80007FFF)) = some [(1, ⟨0x7FFF, 0x8000⟩)] := by
  decide

theorem test_wsamp_window : answerOf (exec (.arbWsamp 4) idle) = some (.fault, 0x08) := by decide

/-- Section 2.2 (a) step 21: the cursor counts modulo 8. -/
theorem test_advw :
    partOf (fun t => t.arb.wr) (exec .arbAdvw (ring 6 6 [] 4)) = some 2 ∧
    answerOf (exec .arbAdvw (idle 5)) = some (.fault, 0x06) := by decide

/-- Section 2.2 (b): `wave[5] <- 0x07`. -/
theorem test_wave :
    partOf (fun t => t.arb.wave) (exec (.arbWave 5) (idle 0xFFFFFF07)) = some ⟨0, 0, 0, 0, 7⟩ ∧
    answerOf (exec (.arbWave 0) idle) = some (.fault, 0x0D) ∧
    answerOf (exec (.arbWave 6) idle) = some (.fault, 0x0D) := by decide

/-- Section 2.2 (c): 10, 20, 30, 40, 50 mix to 1990 and 2020. -/
theorem test_mixw :
    partOf (fun t => t.arb.samp.map (fun e => (e.1, packPair e.2)))
      (exec (.arbMixw 0) { idle with arb := { Arb.reset with wave := ⟨10, 20, 30, 40, 50⟩ } }) =
        some [(0, 0x07E407C6)] := by decide

/-- Section 2.2 (c): overflow wraps and never saturates. -/
theorem test_mix_wraps :
    packPair (mix ⟨0, 0, 0, 0, 1024⟩) = 0x80008000 ∧ packPair (mix ⟨5462, 0, 0, 0, 0⟩) = 0x40028004 ∧
    packPair (mix ⟨65535, 65535, 65535, 65535, 65535⟩) = 0xFFCFFFCF := by decide

/-- Section 2.2 (a) steps 15 and 17; section 2.2 (b). -/
theorem test_rsamp :
    answerOf (exec (.arbRsamp 1) (ring 6 2 [(1, ⟨0x7FFF, 0x8000⟩), (3, ⟨1, 2⟩)])) = some (.ok, 0x00020001) ∧
    answerOf (exec (.arbRsamp 3) (ring 6 2 [(1, ⟨0x7FFF, 0x8000⟩), (3, ⟨1, 2⟩)])) = some (.ok, 0x80007FFF) ∧
    answerOf (exec (.arbRsamp 0) idle) = some (.fault, 0x08) := by decide

/-- Section 2.2 (a) step 24, (b). -/
theorem test_advr :
    partOf (fun t => t.arb.rd) (exec .arbAdvr (ring 2 6 [] 4)) = some 2 ∧
    answerOf (exec .arbAdvr (idle 1)) = some (.fault, 0x07) := by decide

/-! ## Unit XFO (section 2.3, section 2.6) -/

theorem test_request :
    partOf (fun t => t.xfo) (exec .xfoRequest (latch false false)) = some ⟨true, false⟩ ∧
    answerOf (exec .xfoRequest (latch false true)) = some (.fault, 0x0A) := by decide

theorem test_waitack :
    answerOf (exec .xfoWaitack (latch true false)) = some (.retry, 0) ∧
    answerOf (exec .xfoWaitack (latch true true)) = some (.ok, 1) ∧
    answerOf (exec .xfoWaitack (latch false true)) = some (.fault, 0x0A) := by decide

/-- R226 with two-byte slots below 16: slot 1 is at address 12. -/
theorem test_exec :
    partOf (fun t => t.env.nv) (exec .xfoExec (latch true true 1)) = some [(12, 0xA5), (13, 0x5A)] ∧
    answerOf (exec .xfoExec (latch true false 1)) = some (.fault, 0x0A) := by decide

theorem test_release :
    partOf (fun t => t.xfo) (exec .xfoRelease (latch true true)) = some ⟨false, true⟩ ∧
    answerOf (exec .xfoRelease (latch true false)) = some (.fault, 0x0A) := by decide

theorem test_waitresume :
    answerOf (exec .xfoWaitresume (latch false true)) = some (.retry, 0) ∧
    answerOf (exec .xfoWaitresume (latch false false)) = some (.ok, 0) ∧
    answerOf (exec .xfoWaitresume (latch true true)) = some (.fault, 0x0A) := by decide

theorem test_xfo_status :
    answerOf (exec .xfoStatusA (latch false true)) = some (.ok, 2) ∧
    answerOf (exec .xfoStatusB (latch true false)) = some (.ok, 1) ∧
    answerOf (exec .xfoIsexist (latch true false)) = some (.ok, 1) := by decide

theorem test_ack :
    partOf (fun t => (t.xfo, t.fsg.dstate)) (exec .xfoAck (latch true false)) =
      some (⟨true, true⟩, .parkedForFlash) ∧
    answerOf (exec .xfoAck (latch false false)) = some (.fault, 0x09) ∧
    answerOf (exec .xfoAck idle) = some (.fault, 0x0B) := by decide

/-- R163 (b): back to Streaming whatever the lock is. -/
theorem test_resume :
    partOf (fun t => (t.xfo, t.fsg.dstate))
      (exec .xfoResume { latch false true with fsg := { Fsg.reset with dstate := .parkedForFlash } }) =
        some (⟨false, false⟩, .streaming) ∧
    answerOf (exec .xfoResume (latch true true)) = some (.retry, 0) ∧
    answerOf (exec .xfoResume (latch false false)) = some (.fault, 0x0B) := by decide

/-! ## Unit PAD (section 2.4) -/

theorem test_report :
    partOf (fun t => (t.pad.raw0, t.pad.raw1)) (exec (.padReport 1) (idle 0x0100FF80)) =
      some (0x00808080, 0x0100FF80) ∧
    answerOf (exec (.padReport 2) idle) = some (.fault, 0x0D) := by decide

theorem test_detach :
    partOf (fun t => (t.pad.raw0, t.pad.raw1))
      (exec (.padDetach 0) { idle with pad := { Pad.reset with raw0 := 1, raw1 := 2 } }) = some (0x00808080, 2) ∧
    answerOf (exec (.padDetach 2) idle) = some (.fault, 0x0D) := by decide

theorem test_pad_reads :
    answerOf (exec (.padCur 1) { idle with pad := ⟨1, 2, 3, 4, 5, 6⟩ }) = some (.ok, 4) ∧
    answerOf (exec .padPushed { idle with pad := ⟨1, 2, 3, 4, 5, 6⟩ }) = some (.ok, 5) ∧
    answerOf (exec (.padRaw 1) { idle with pad := ⟨1, 2, 3, 4, 5, 6⟩ }) = some (.ok, 2) := by decide

/-- Section 2.4 (a): the boundaries of both axes. -/
theorem test_translate_axes :
    [0x0080803F, 0x00808040, 0x008080C0, 0x008080C1, 0x00803F80, 0x00804080, 0x0080C080, 0x0080C180].map
      (Machine.translate Config.vectors) = [0x40, 0, 0, 0x80, 0x10, 0, 0, 0x20] := by decide

/-- Section 2.4 (a): buttons, and the third axis that nothing reads. -/
theorem test_translate_buttons :
    [0xFF80FFFF, 0x3C808080, 0x40808080, 0x80808080, 0xC3808080, 0x00FF8080].map
      (Machine.translate Config.vectors) = [0xAF, 0, 0x04, 0x08, 0x0F, 0] := by decide

/-! ## Unit FSG (section 2.4, program P4) -/

/-- R200's example: select, A and left in the first frame. -/
theorem test_frame :
    partOf (fun t => (t.pad, t.fsg.gest, t.fsg.sys))
      (exec .fsgFrame { idle with pad := { Pad.reset with raw0 := 0x41808000 } }) =
        some (⟨0x41808000, 0x00808080, 0x45, 0, 0x45, 0x45⟩, 1, true) := by decide

/-- P4 steps 12 to 15: held, it fires once only. -/
theorem test_frame_held :
    partOf (fun t => (t.pad.pushed, t.fsg.gest, t.fsg.sys))
      (exec .fsgFrame { idle with
        pad := { Pad.reset with raw0 := 0x40808000, prev := 0x44 }, fsg := { Fsg.reset with gest := 1, sys := true } }) =
        some (0, 0, false) := by decide

theorem test_fsg_reads :
    answerOf (exec .fsgGest { idle with fsg := { Fsg.reset with gest := 5, sys := true } }) = some (.ok, 5) ∧
    answerOf (exec .fsgSys { idle with fsg := { Fsg.reset with gest := 5, sys := true } }) = some (.ok, 1) ∧
    answerOf (exec .fsgDstateA (latch true true)) = some (.ok, 2) ∧
    answerOf (exec .fsgDstateB streaming) = some (.ok, 1) := by decide

theorem test_dsync :
    partOf (fun t => t.fsg.dstate) (exec .fsgDsync { idle with fsg := { Fsg.reset with lock := true } }) =
      some .streaming ∧
    answerOf (exec .fsgDsync { streaming with fsg := { Fsg.reset with dstate := .streaming } }) = some (.retry, 0) := by
  decide

/-- While parked, a lost lock moves nothing (R204). -/
theorem test_dsync_parked :
    answerOf (exec .fsgDsync { idle with fsg := { Fsg.reset with dstate := .parkedForFlash } }) = some (.ok, 2) := by
  decide

theorem test_lock :
    partOf (fun t => t.fsg.lock) (exec .fsgLock (idle 1)) = some true ∧
    partOf (fun t => t.fsg.lock) (exec .fsgLock (streaming 0xFFFFFFFE)) = some false := by decide

/-! ## The fault mechanism and one step (program P5) -/

theorem test_ctl_fault :
    answerOf (exec .ctlFaultA deadBlock) = some (.ok, 1) ∧ answerOf (exec .ctlFaultB deadBlock) = some (.ok, 1) ∧
    answerOf (exec .ctlFaultX deadBlock) = some (.ok, 1) := by decide

/-- P5 steps 4, 7 and 9: a dead block, its one command, and the first cause kept. -/
theorem test_dead_block :
    answerOf (step (withInput deadBlock .a 0x00000000 0)) = some (.fault, 1) ∧
    answerOf (step (withInput deadBlock .b 0x1F000000 0)) = some (.ok, 1) ∧
    answerOf (step (withInput deadBlock .a 0x05000000 0)) = some (.fault, 1) := by decide

/-- R96: another port's word, and another port's `CTL.FAULT`. -/
theorem test_wrong_port :
    answerOf (step (withInput idle .b 0x00000000 0)) = some (.fault, 0x0C) ∧
    answerOf (step (withInput idle .a 0x1F000000 0)) = some (.fault, 0x0C) := by decide

/-- The host's placed word is served by the very next step. -/
theorem test_with_fetch_word :
    answerOf (step (State.reset.withFetchWord 32 0x01000000)) = some (.ok, 4) ∧
    answerOf (step (State.reset.withFetchWord 32 0x24000000)) = some (.ok, 0) := by decide

/-! ## The environment (section 2.7) -/

/-- Section 2.7 (a). -/
theorem test_slot_addresses :
    slotAddr Config.vectors 0 = 0x1007E000 ∧ slotAddr Config.vectors 1 = 0x1007C000 ∧
    slotAddr Config.vectors 2 = 0x1007A000 ∧ slotAddr { Config.vectors with slotSize := 4096 } 7 = 0x10078000 := by
  decide

/-- A catalog of three entries. -/
def three (i : Nat) : Env :=
  { Env.initial with
    parsed := true
    catalog := [⟨0, 1, "a"⟩, ⟨1, 1, "b"⟩, ⟨2, 1, "c"⟩]
    selectedIndex := i }

/-- Section 2.7 (b). -/
theorem test_catalog :
    (catalogNext (three 0)).selectedIndex = 1 ∧ (catalogNext (three 2)).selectedIndex = 0 ∧
    (catalogPrev (three 0)).selectedIndex = 2 ∧ (catalogPrev (catalogNext (three 2))).selectedIndex = 2 ∧
    catalogNext Env.initial = Env.initial ∧ Env.initial.current = none := by
  decide

/-- Section 2.7 (e): the menu actions of the report 0b101. -/
theorem test_menu_order :
    menuJobs 5 = [.save, .catalogPrev, .load, .resetEmulation, .save, .load, .resetEmulation] := by decide

/-- Section 2.7 (d): a clean save and a save with no slot issue no command. -/
theorem test_save_nothing :
    saveTasks small (three 0) = [] ∧ saveTasks small { Env.initial with dirty := true } = [] := by decide

/-- R223: a second `init()` leaves a parsed catalog and its selection as they are. -/
theorem test_init_once : catalogInit small 0 (three 1) = three 1 := by decide

/-- R99: the table's rows `writePointer()`, `readPointer()` and "consume one line". -/
theorem test_pointer_and_line :
    writePointer [.pair 0 5, .mixed 1] =
      [.issue .arbWptr 0, .issue (.arbWsamp 0) 5, .issue (.arbMixw 1) 0] ∧
    readPointer [0, 1] = [.issue .arbRptr 0, .issue (.arbRsamp 0) 0, .issue (.arbRsamp 1) 0] ∧
    consumeLine [32] = [.untilOk .lbxPoll 0, .issue (.lbxRpix 32) 0, .issue .lbxReturn 0] := by
  decide

/-- R143: nothing on an empty ring; else the pairs taken, which may be none, and the advance by as many. -/
theorem test_consumer :
    consumeTasks 2 0 = [] ∧ consumeTasks 0 5 = [.issue .arbAdvr 0] ∧
    consumeTasks 2 5 = [.issue (.arbRsamp 0) 0, .issue (.arbRsamp 1) 0, .issue .arbAdvr 2] := by
  decide

/-! ## Witnesses: for each statement with hypotheses, a state and operands that meet them -/

theorem witness_DecodeEncodeRoundTrip : (Instr.lbxWpix 65535).wf = true ∧ Instr.fsgLock.wf = true := by decide

theorem witness_EncodeDecodeRoundTrip : decode 0x0001FFFF = .ok (.lbxWpix 65535) := by decide

theorem witness_DecoderAcceptsExactlyTheTable :
    (∃ r ∈ opcodeTable, r.Matches 0x0001FFFF ∧ r.port = .a) ∧ decode 0x0001FFFF = .ok (.lbxWpix 65535) := by decide

/-- A live block with a format I command of port A at the head of the inputs. -/
theorem witness_StepRunsTheDecodedCommand :
    (withInput filling .a 0x000100FF 7).cfg.WellFormed ∧
    (withInput filling .a 0x000100FF 7).queue = [.command .a 0x000100FF 7] ∧ decode 0x000100FF = .ok (.lbxWpix 255) ∧
    (Instr.lbxWpix 255).port = .a ∧ (withInput filling .a 0x000100FF 7).ctlFault = 0 := by decide

/-- Step 1 on a dead block, step 2, step 3 with a word of no row and with another port's word, step 4. -/
theorem witness_DispatchTakesItsFourStepsInOrder :
    (withInput deadBlock .b 0x1F000000 0).cfg.WellFormed ∧ (0x1F000000 : Word) = ctlWord .b ∧
    ((0x00000000 : Word) ≠ ctlWord .a ∧ deadBlock.ctlFault ≠ 0) ∧
    ((0x05000000 : Word) ≠ ctlWord .a ∧ (withInput idle .a 0x05000000 0).ctlFault = 0 ∧
      ∀ r ∈ opcodeTable, r.Matches 0x05000000 → r.port ≠ .a) ∧
    ((0x0F000000 : Word) ≠ ctlWord .b ∧ ∀ r ∈ opcodeTable, r.Matches 0x0F000000 → r.port ≠ .b) ∧
    ((0x14000000 : Word) ≠ ctlWord .b ∧ idle.ctlFault = 0 ∧ decode 0x14000000 = .ok .fsgDsync ∧
      Instr.fsgDsync.port = .b) := by decide

theorem witness_AFaultingCommandDoesNothingElse :
    ∃ t, idle.ctlFault = 0 ∧ exec (.lbxWpix 0) idle = .next t ∧ t.ctlFault ≠ 0 :=
  ⟨_, rfl, rfl, by decide⟩

theorem witness_DeadBlockNeverChanges :
    ∃ t, (withInput deadBlock .a 0 0).ctlFault ≠ 0 ∧ (withInput deadBlock .a 0 0).resetNext = false ∧
      step (withInput deadBlock .a 0 0) = .next t :=
  ⟨_, by decide, rfl, (step_input (by decide) rfl).trans rfl⟩

theorem witness_IllFormedConfigurationIsRefused :
    ¬ ({ idle with cfg := { Config.vectors with slotSize := 6144 } } : State).cfg.WellFormed := by decide

/-- The largest operand; not acquired; the first index out of range; the last index in range. -/
theorem witness_WpixWritesOnePixelOfTheFillTarget :
    65535 < 65536 ∧ (idle.ctlFault = 0 ∧ idle.lbx.acq = false) ∧
    (filling.ctlFault = 0 ∧ filling.lbx.acq = true ∧ filling.cfg.visW ≤ 256) ∧
    (filling.lbx.acq = true ∧ 255 < filling.cfg.visW) := by decide

/-- Not acquired; the wrong buffer; a buffer in flight; nothing in flight. -/
theorem witness_PublishHandsTheBufferOver :
    (idle.ctlFault = 0 ∧ idle.lbx.acq = false) ∧
    ((filling 1).ctlFault = 0 ∧ (filling 1).lbx.acq = true ∧
      (filling 1).wdata.setWidth 1 ≠ (filling 1).lbx.fillSel) ∧
    ((inFlight 1).lbx.acq = true ∧ (inFlight 1).wdata.setWidth 1 = (inFlight 1).lbx.fillSel ∧
      (inFlight 1).lbx.fltValid = true) ∧
    ((filling 2).lbx.acq = true ∧ (filling 2).wdata.setWidth 1 = (filling 2).lbx.fillSel ∧
      (filling 2).lbx.fltValid = false) := by decide

theorem witness_LbxStatusShowsTheOwnerTag : 4 ≤ 4 := by decide

theorem witness_PollFindsTheInFlightBuffer :
    (idle.ctlFault = 0 ∧ idle.fsg.dstate ≠ .streaming) ∧
    (streaming.fsg.dstate = .streaming ∧ streaming.lbx.fltValid = false) ∧
    (inFlight.fsg.dstate = .streaming ∧ inFlight.lbx.fltValid = true) := by decide

/-- Not streaming; nothing in flight; the first index out of range; the last index in range. -/
theorem witness_RpixReadsThePixelInFlight :
    65535 < 65536 ∧ (idle.ctlFault = 0 ∧ idle.fsg.dstate ≠ .streaming) ∧
    (streaming.ctlFault = 0 ∧ streaming.fsg.dstate = .streaming ∧ streaming.lbx.fltValid = false) ∧
    (inFlight.ctlFault = 0 ∧ inFlight.fsg.dstate = .streaming ∧ inFlight.lbx.fltValid = true ∧
      inFlight.cfg.lineW ≤ 320) ∧
    319 < inFlight.cfg.lineW := by decide

theorem witness_ReturnGivesTheBufferBack :
    (idle.ctlFault = 0 ∧ idle.fsg.dstate ≠ .streaming) ∧
    (streaming.ctlFault = 0 ∧ streaming.fsg.dstate = .streaming ∧ streaming.lbx.fltValid = false) ∧
    (inFlight.fsg.dstate = .streaming ∧ inFlight.lbx.fltValid = true) := by decide

theorem witness_PublishedPixelIsRead :
    ({ streaming 0x1111 with lbx := { Lbx.reset with acq := true } } : State).cfg.WellFormed ∧
    ({ streaming 0x1111 with lbx := { Lbx.reset with acq := true } } : State).lbx.acq = true ∧
    ({ streaming 0x1111 with lbx := { Lbx.reset with acq := true } } : State).lbx.fltValid = false ∧
    (streaming 0x1111).fsg.dstate = .streaming ∧ 255 < (streaming 0x1111).cfg.visW := by decide

/-- A write to the other buffer while buffer 0 is in flight. -/
theorem witness_InFlightPixelsNeverChange :
    ∃ t, LbxInv (withInput inFlight .a 0x00010003 9) ∧ (withInput inFlight .a 0x00010003 9).lbx.fltValid = true ∧
      (withInput inFlight .a 0x00010003 9).resetNext = false ∧ step (withInput inFlight .a 0x00010003 9) = .next t :=
  ⟨_, by decide, rfl, rfl, (step_input (by decide) rfl).trans rfl⟩

theorem witness_RingSizesCountUnreadPairs : (ring 2 6 []).cfg.AudioOk ∧ RingInv (ring 2 6 []) := by decide

theorem witness_RingPointersAreRingPositions : (ring 7 3 []).cfg.AudioOk := by decide

/-- The first offset outside the window and the last inside it. -/
theorem witness_WsampStoresOnePairInTheWindow :
    65535 < 65536 ∧ (idle.ctlFault = 0 ∧ writable idle.cfg idle.arb ≤ 4) ∧ 3 < writable idle.cfg idle.arb := by
  decide

theorem witness_AdvwMovesTheWriteCursor :
    ((idle 5).ctlFault = 0 ∧ writable (idle 5).cfg (idle 5).arb < (idle 5).wdata.toNat) ∧
    (idle 4).wdata.toNat ≤ writable (idle 4).cfg (idle 4).arb := by decide

theorem witness_WaveLoadsOneMixerInput :
    65535 < 65536 ∧ (idle.ctlFault = 0 ∧ ((0 < 1 ∨ 5 < 0) ∧ (6 < 1 ∨ 5 < 6))) ∧
    (idle.cfg.waveW ≤ 16 ∧ (1 ≤ 1 ∧ 1 ≤ 5) ∧ (1 ≤ 5 ∧ 5 ≤ 5)) := by decide

theorem witness_MixwStoresTheMixInTheWindow :
    65535 < 65536 ∧ (idle.ctlFault = 0 ∧ writable idle.cfg idle.arb ≤ 4) ∧ 3 < writable idle.cfg idle.arb := by
  decide

theorem witness_RsampReadsOnePairOfTheWindow :
    65535 < 65536 ∧ ((ring 3 0 []).ctlFault = 0 ∧ readable (ring 3 0 []).cfg (ring 3 0 []).arb ≤ 3) ∧
    2 < readable (ring 3 0 []).cfg (ring 3 0 []).arb := by decide

theorem witness_AdvrMovesTheReadCursor :
    ((ring 3 0 [] 4).ctlFault = 0 ∧ readable (ring 3 0 [] 4).cfg (ring 3 0 [] 4).arb < (ring 3 0 [] 4).wdata.toNat) ∧
    (ring 3 0 [] 3).wdata.toNat ≤ readable (ring 3 0 [] 3).cfg (ring 3 0 [] 3).arb := by decide

/-- The last offset of the largest advance, with one pair already unread. -/
theorem witness_StoredPairIsReadInOrder :
    (ring 7 6 []).cfg.AudioOk ∧ RingInv (ring 7 6 []) ∧ 2 < (3 : Word).toNat ∧
    (3 : Word).toNat ≤ writable (ring 7 6 []).cfg (ring 7 6 []).arb := by decide

theorem witness_FullRingRoundTripRestoresCapacity :
    (ring 6 6 []).cfg.AudioOk ∧ RingInv (ring 6 6 []) ∧ unread (ring 6 6 []).cfg (ring 6 6 []).arb = 0 ∧
    (4 : Word).toNat = (ring 6 6 []).cfg.ringN := by decide

/-- A store into the one writable position while three pairs are unread. -/
theorem witness_UnreadPairsAreNeverOverwritten :
    ∃ t, RingInv (withInput (ring 3 0 []) .a 0x01020000 9) ∧
      (withInput (ring 3 0 []) .a 0x01020000 9).resetNext = false ∧
      step (withInput (ring 3 0 []) .a 0x01020000 9) = .next t ∧
      2 < readable (withInput (ring 3 0 []) .a 0x01020000 9).cfg (withInput (ring 3 0 []) .a 0x01020000 9).arb :=
  ⟨_, by decide, rfl, (step_input (by decide) rfl).trans rfl, by decide⟩

theorem witness_RequestAndReleaseMoveTheRequestFlag :
    ((latch false true).ctlFault = 0 ∧ ((latch false true).xfo.req = true ∨ (latch false true).xfo.ack = true)) ∧
    ((latch false false).xfo.req = false ∧ (latch false false).xfo.ack = false) ∧
    ((latch true false).ctlFault = 0 ∧ ((latch true false).xfo.req = false ∨ (latch true false).xfo.ack = false)) ∧
    ((latch true true).xfo.req = true ∧ (latch true true).xfo.ack = true) := by decide

theorem witness_WaitsPollTheAcknowledgeFlag :
    ((latch false true).ctlFault = 0 ∧ (latch false true).xfo.req = false ∧ (latch false true).xfo.ack = true) ∧
    ((latch true false).ctlFault = 0 ∧ (latch true false).xfo.req = true ∧ (latch true false).xfo.ack = false) ∧
    ((latch true true).xfo.req = true ∧ (latch true true).xfo.ack = true) ∧
    ((latch false false).xfo.req = false ∧ (latch false false).xfo.ack = false) := by decide

/-- Outside the grant; the first slot that does not exist; the last slot, with its first and last byte and the bytes
beside it. -/
theorem witness_ExecCopiesTheSaveRegionToTheSlot :
    ((latch true false).ctlFault = 0 ∧ ((latch true false).xfo.req = false ∨ (latch true false).xfo.ack = false)) ∧
    ((latch true true 8).xfo.req = true ∧ (latch true true 8).xfo.ack = true ∧
      (latch true true 8).cfg.numSlots ≤ (latch true true 8).wdata.toNat) ∧
    ((latch true true 7).xfo.req = true ∧ (latch true true 7).xfo.ack = true ∧
      (latch true true 7).wdata.toNat < (latch true true 7).cfg.numSlots) ∧
    (1 < small.slotSize ∧ small.nvBase - small.slotSize * (7 + 1) + small.slotSize ≤ 2) := by decide

theorem witness_AckParksTheDisplayCore :
    (idle.ctlFault = 0 ∧ idle.fsg.dstate ≠ .streaming) ∧
    ((latch false false).ctlFault = 0 ∧ (latch false false).fsg.dstate = .streaming ∧
      (latch false false).xfo.req = false) ∧
    ((latch true false).fsg.dstate = .streaming ∧ (latch true false).xfo.req = true) := by decide

theorem witness_ResumeLeavesThePark :
    (idle.ctlFault = 0 ∧ idle.fsg.dstate ≠ .parkedForFlash) ∧
    ((latch true true).fsg.dstate = .parkedForFlash ∧ (latch true true).xfo.req = true) ∧
    ((latch false true).fsg.dstate = .parkedForFlash ∧ (latch false true).xfo.req = false) := by decide

/-- A flash operation changes the storage; a parked live block and each of the three line-buffer commands. -/
theorem witness_FlashRunsOnlyWhileParked :
    (∃ t, ParkInv (withInput (latch true true) .a 0x02020000 1) ∧
      step (withInput (latch true true) .a 0x02020000 1) = .next t ∧
      t.env.nv ≠ (withInput (latch true true) .a 0x02020000 1).env.nv) ∧
    ((latch true true).ctlFault = 0 ∧ (latch true true).fsg.dstate = .parkedForFlash) :=
  ⟨⟨_, by decide, (step_input (by decide) rfl).trans rfl, by decide⟩, rfl, rfl⟩

theorem witness_LatchMovesAroundItsCycle :
    ∃ t, ParkInv (latch true false) ∧ exec .xfoAck (latch true false) = .next t :=
  ⟨_, by decide, rfl⟩

theorem witness_ReportsAreLatchedWhole : 65535 < 65536 ∧ idle.ctlFault = 0 ∧ 1 < 2 := by decide

theorem witness_PadReadsShowTheirRegisters : 65535 < 65536 ∧ idle.ctlFault = 0 ∧ 1 < 2 := by decide

theorem witness_TranslateMapsAxesAndButtons : Config.vectors.MasksOk := by decide

/-- Left, right and start all held in the previous frame. -/
theorem witness_HeldButtonsFireNoGestureAgain :
    ({ idle with pad := { Pad.reset with prev := 0xC8 } } : State).cfg.MasksOk ∧
    (0xC8 : Word) &&& idle.cfg.mLeft ≠ 0 ∧ (0xC8 : Word) &&& idle.cfg.mRight ≠ 0 ∧
    (0xC8 : Word) &&& idle.cfg.mStart ≠ 0 := by decide

theorem witness_FsgReadsShowTheirRegisters :
    idle.fsg.dstate = .waitValidTiming ∧ streaming.fsg.dstate = .streaming ∧
    (latch true true).fsg.dstate = .parkedForFlash := by decide

/-- The five cases of R204. -/
theorem witness_DsyncFollowsTheLock :
    (({ idle with fsg := { Fsg.reset with lock := true } } : State).fsg.dstate = .waitValidTiming ∧
      ({ idle with fsg := { Fsg.reset with lock := true } } : State).fsg.lock = true) ∧
    (idle.fsg.dstate = .waitValidTiming ∧ idle.fsg.lock = false) ∧
    (({ idle with fsg := { Fsg.reset with dstate := .streaming } } : State).fsg.dstate = .streaming ∧
      ({ idle with fsg := { Fsg.reset with dstate := .streaming } } : State).fsg.lock = false) ∧
    (streaming.fsg.dstate = .streaming ∧ streaming.fsg.lock = true) ∧
    (latch true true).fsg.dstate = .parkedForFlash := by decide

theorem witness_PureReadsChangeNothing : isPureRead (.lbxRpix 35) = true ∧ inFlight.ctlFault = 0 := by decide

/-- A next state of a command of each port, and one that changes the owner tag. -/
theorem witness_EverySharedFlagHasOneWriter :
    (∃ t, exec .lbxPublish filling = .next t ∧ t.lbx.fltValid ≠ filling.lbx.fltValid ∧
      Instr.lbxPublish.port ≠ .b ∧ Instr.lbxPublish.port ≠ .x) ∧
    (∃ t, exec .lbxReturn inFlight = .next t ∧ t.lbx.fltValid ≠ inFlight.lbx.fltValid ∧
      Instr.lbxReturn.port ≠ .a) :=
  ⟨⟨_, rfl, by decide, by decide, by decide⟩, ⟨_, rfl, by decide, by decide⟩⟩

/-- The invariants hold of the state after reset with a command waiting, and the step gives a next state. -/
theorem witness_EveryStepKeepsTheInvariants :
    ∃ t, (withInput idle .a 0x00000000 0).Inv ∧ step (withInput idle .a 0x00000000 0) = .next t :=
  ⟨_, ⟨by decide, by decide, by decide, by decide, by decide, by decide, by decide, by decide, by decide, by decide,
    by decide, by decide⟩, (step_input (by decide) rfl).trans rfl⟩

theorem witness_ResetMeetsTheInvariants : Config.vectors.WellFormed := by decide

theorem witness_ResetInputRestoresTheBlock :
    ({ deadBlock with queue := [.reset] } : State).cfg.WellFormed ∧
    ({ deadBlock with queue := [.reset] } : State).queue = .reset :: [] := by decide

/-- The document's numbers, and the last slot. -/
theorem witness_SaveSlotsDoNotOverlap :
    (Config.vectors.nvBase = 0x10080000 ∧ Config.vectors.slotSize = 8192) ∧
    (Config.vectors.WellFormed ∧ 7 < Config.vectors.numSlots) ∧ (6 < 7 ∧ 7 < Config.vectors.numSlots) := by decide

/-- A dirty region, a catalog of three entries with the second selected, and its slot. -/
def savable : Env := { three 1 with dirty := true, save := [(0, 0xA5), (1, 0x5A)] }

theorem witness_LoadAfterSaveReproducesTheBytes : currentSlot small savable = some 1 ∧ 1 < small.slotSize := by decide

theorem witness_CatalogSelectionWraps :
    ({ Env.initial with mode := .singleImage } : Env).mode = .singleImage ∧ Env.initial.catalog = [] ∧
    ((three 0).mode = .multiImage ∧ (three 0).catalog ≠ []) ∧
    (three 2).selectedIndex < (three 2).catalog.length := by decide

/-- A clean region with a slot, and a dirty region with no slot. -/
theorem witness_CleanSavePerformsNoFlashOperation :
    (({ idle with env := three 1, queue := [.runEmu], emu := [.job .save] } : State).cfg.WellFormed ∧
      ({ idle with env := three 1, queue := [.runEmu], emu := [.job .save] } : State).env.dirty = false) ∧
    currentSlot idle.cfg ({ Env.initial with dirty := true } : Env) = none := by decide

theorem witness_ClientMoveServesItsCommand :
    ∃ u a, ({ idle with queue := [.runEmu], emu := [.job (.issue .arbWsize 0)] } : State).cfg.WellFormed ∧
      ({ idle with queue := [.runEmu], emu := [.job (.issue .arbWsize 0)] } : State).ctlFault = 0 ∧
      Instr.arbWsize.wf = true ∧ Instr.arbWsize.port = .a ∧
      exec .arbWsize (({ idle with queue := [.runEmu], emu := [.job (.issue .arbWsize 0)] } : State).serving .a 0 []) =
        .next u ∧ u.answer = some a :=
  ⟨_, _, by decide, rfl, rfl, rfl, rfl, rfl⟩

/-- A streaming display core, a dirty region whose selection has a slot, both clients at the start of their
procedures, and the ten moves. -/
def beforeSave : State :=
  { latch false false with
    env := savable
    emu := [.job .save]
    disp := [.processOrWaitIfExist]
    queue := [.runEmu, .runEmu, .runDisp, .runDisp, .runEmu, .runEmu, .runEmu, .runDisp, .runEmu, .runEmu] }

theorem witness_SaveRunsTheRendezvous :
    beforeSave.cfg.WellFormed ∧ beforeSave.ctlFault = 0 ∧ beforeSave.xfo = ⟨false, false⟩ ∧
    beforeSave.fsg.dstate = .streaming ∧ beforeSave.env.dirty = true ∧
    currentSlot beforeSave.cfg beforeSave.env = some 1 ∧ 1 < beforeSave.cfg.numSlots ∧
    beforeSave.emu = [.job .save] ∧ beforeSave.disp = [.processOrWaitIfExist] := by decide

/-- One byte too many, and exactly the whole region. -/
theorem witness_EmulatorWritesStayInTheSaveRegion :
    ({ idle with cfg := small, queue := [.saveWrite 1 [1, 2]] } : State).cfg.WellFormed ∧
    small.slotSize < 1 + ([1, 2] : List Byte).length ∧ 0 + ([1, 2] : List Byte).length ≤ small.slotSize := by decide

end Sys2Proof.Tests
end

section
/-! PROOFS. The scope of the model: a configuration that is not well-formed has no behaviour (R8). -/

namespace Sys2Proof.Machine

/-- R8: the check of the configuration comes before the input list is read, so the refusal is the same whatever input
waits; `step_input` is the other branch of the same check. -/
theorem step_of_not_wellFormed {s : State} (hw : ¬ s.cfg.WellFormed) : step s = .refused .illFormedConfig := by
  unfold step stepInput
  rw [if_neg hw]

/-- Settles O10: the configuration's check fails, so the step refuses before it looks at the inputs. -/
theorem illFormedConfigurationIsRefused : Obligations.IllFormedConfigurationIsRefused := by
  intro s hw
  exact step_of_not_wellFormed hw

end Sys2Proof.Machine
end

section
/-! PROOFS. What a step can do to the block and its environment, said once: `step_moves`. Every statement about all
steps follows from it by cases on the one `Move` a step makes. -/

namespace Sys2Proof.Machine

variable {s t u v : State}

/-- Two states that differ in what the model keeps about the clients only: the command lines, the last response, the
tasks and the inputs (log 7, log 8, log 14). -/
inductive SameMachine (s : State) : State → Prop where
  | mk (p : Port) (d : Word) (a : Option Answer) (emu : List EmuTask) (disp : List DispTask) (q : List Input) :
      SameMachine s { s with port := p, wdata := d, answer := a, emu := emu, disp := disp, queue := q }

theorem SameMachine.refl (s : State) : SameMachine s s := .mk ..

theorem SameMachine.trans (h : SameMachine s t) (h' : SameMachine t u) : SameMachine s u := by
  cases h
  cases h'
  exact .mk ..

theorem sameMachine_respond (s : State) (st : Status) (d : Word) : SameMachine s (s.respond st d) := .mk ..

theorem sameMachine_present (s : State) (p : Port) (d : Word) : SameMachine s (s.present p d) := .mk ..

theorem sameMachine_queue (s : State) (q : List Input) : SameMachine s { s with queue := q } := .mk ..

theorem sameMachine_emuAnswered (k : EmuTask) (rest : List EmuTask) (s : State) :
    SameMachine s (emuAnswered k rest s) := by
  obtain ⟨l, hl⟩ := emuAnswered_eq k rest s
  rw [hl]
  exact .mk ..

theorem sameMachine_dispAnswered (k : DispTask) (rest : List DispTask) (s : State) :
    SameMachine s (dispAnswered k rest s) := by
  obtain ⟨l, hl⟩ := dispAnswered_eq k rest s
  rw [hl]
  exact .mk ..

theorem sameMachine_dispLocal (k : DispTask) (rest : List DispTask) (s : State) :
    SameMachine s (dispLocal k rest s) := by
  obtain ⟨l, hl⟩ := dispLocal_eq k rest s
  rw [hl]
  exact .mk ..

/-- The one thing a step other than the reset input can do to the block and its environment. -/
inductive Move : State → State → Prop where
  | stays (s : State) : Move s s
  | fault (s : State) (c : FaultCode) : Move s (s.takeFault c)
  | command {i : Instr} {s u : State} (he : Effect i s u) : Move s u
  | emulatorWrite (s : State) (off : Nat) (bytes : List Byte) (hb : off + bytes.length ≤ s.cfg.slotSize) :
      Move s (s.setEnv (s.env.saveWrite off bytes))
  | setDirty (s : State) (b : Bool) : Move s (s.setEnv { s.env with dirty := b })
  | load (s : State) : Move s (s.setEnv (loadSave s.cfg s.env))
  | selectNext (s : State) : Move s (s.setEnv (catalogNext s.env))
  | selectPrev (s : State) : Move s (s.setEnv (catalogPrev s.env))
  | init (s : State) (base : Nat) : Move s (s.setEnv (catalogInit s.cfg base s.env))

/-- `t` is `s` after one move, whatever happens to the clients before and after it. -/
def Moves (s t : State) : Prop := ∃ u v, SameMachine s u ∧ Move u v ∧ SameMachine v t

theorem SameMachine.moves (h : SameMachine s t) : Moves s t := ⟨s, s, .refl s, .stays s, h⟩

theorem Move.moves (h : Move s t) : Moves s t := ⟨s, t, .refl s, h, .refl t⟩

theorem Moves.before (h : SameMachine s t) (hm : Moves t u) : Moves s u := by
  obtain ⟨x, y, hx, hxy, hy⟩ := hm
  exact ⟨x, y, h.trans hx, hxy, hy⟩

theorem Moves.after (hm : Moves s t) (h : SameMachine t u) : Moves s u := by
  obtain ⟨x, y, hx, hxy, hy⟩ := hm
  exact ⟨x, y, hx, hxy, hy.trans h⟩

/-- A command makes one move. -/
theorem exec_moves {i : Instr} (h : exec i s = .next t) : Moves s t := by
  rcases exec_next h with ⟨st, d, rfl⟩ | ⟨c, rfl⟩ | ⟨u, st, d, hu, rfl⟩
  · exact (sameMachine_respond s st d).moves
  · exact (Move.fault s c).moves
  · exact (Move.command hu).moves.after (sameMachine_respond u st d)

/-- A transaction makes one move (R93). -/
theorem serve_moves {p : Port} {cmd d : Word} (h : serve p cmd d s = .next t) : Moves s t := by
  refine .before (sameMachine_present s p d) ?_
  rcases serve_next h with ⟨i, -, -, he⟩ | ⟨-, rfl⟩ | ⟨-, rfl⟩
  · exact exec_moves he
  · exact (sameMachine_respond ..).moves
  · exact (Move.fault ..).moves

/-- A step of the emulation core's own software makes one move. -/
theorem emuLocal_moves (k : EmuTask) (rest : List EmuTask) (s : State) : Moves s (emuLocal k rest s) := by
  obtain ⟨l, e, he, rfl | rfl | rfl | rfl | rfl | ⟨base, rfl⟩⟩ := emuLocal_eq k rest s <;> rw [he]
  · exact (Move.stays s).moves.after (.mk ..)
  · exact (Move.setDirty s false).moves.after (.mk ..)
  · exact (Move.load s).moves.after (.mk ..)
  · exact (Move.selectNext s).moves.after (.mk ..)
  · exact (Move.selectPrev s).moves.after (.mk ..)
  · exact (Move.init s base).moves.after (.mk ..)

theorem runEmu_moves (h : runEmu s = .next t) : Moves s t := by
  rcases runEmu_next h with ⟨-, rfl⟩ | ⟨k, rest, i, d, u, -, -, hu, rfl⟩ | ⟨k, rest, -, -, rfl⟩
  · exact (Move.stays t).moves
  · exact (serve_moves hu).after (sameMachine_emuAnswered k rest u)
  · exact emuLocal_moves k rest s

theorem runDisp_moves (h : runDisp s = .next t) : Moves s t := by
  rcases runDisp_next h with ⟨-, rfl⟩ | ⟨k, rest, i, d, u, -, -, hu, rfl⟩ | ⟨k, rest, -, -, rfl⟩
  · exact (Move.stays t).moves
  · exact (serve_moves hu).after (sameMachine_dispAnswered k rest u)
  · exact (sameMachine_dispLocal k rest s).moves

/-- Every input but the reset input makes one move. -/
theorem handleInput_moves {inp : Input} (hr : inp ≠ .reset) (h : handleInput inp s = .next t) : Moves s t := by
  cases inp <;> simp only [handleInput] at h
  case command => exact serve_moves h
  case reset => exact absurd rfl hr
  case saveWrite off bytes =>
    unfold emulatorWrite at h
    split at h <;> cases h
    exact (Move.emulatorWrite s off bytes ‹_›).moves
  case markDirty =>
    cases h
    exact (Move.setDirty s true).moves
  case emuWork =>
    cases h
    exact (SameMachine.mk ..).moves
  case dispWork =>
    cases h
    exact (SameMachine.mk ..).moves
  case runEmu => exact runEmu_moves h
  case runDisp => exact runDisp_moves h

/-- Everything a step can do to the block and its environment: the reset input, or one move. -/
theorem step_moves (h : step s = .next t) :
    (s.resetNext = true ∧ SameMachine s.resetBlock t) ∨ Moves s t := by
  obtain ⟨-, ⟨-, rfl⟩ | ⟨inp, rest, hq, hi⟩⟩ := step_next h
  · exact .inr (Move.stays t).moves
  by_cases hr : inp = .reset
  · subst hr
    cases hi
    exact .inl ⟨by simp [State.resetNext, hq], .mk ..⟩
  · exact .inr (.before (sameMachine_queue s rest) (handleInput_moves hr hi))

/-- A step without the reset input makes one move. -/
theorem step_moves_of_not_reset (hr : s.resetNext = false) (h : step s = .next t) : Moves s t := by
  rcases step_moves h with ⟨hr', -⟩ | hm
  · rw [hr] at hr'
    cases hr'
  · exact hm

end Sys2Proof.Machine
end

section
/-! PROOFS. The native pad bits of R180: no bit outside the masks, and opposite directions never together (R182). -/

namespace Sys2Proof.Machine

/-! ## No bit outside the eight masks -/

/-- Every bit of `x` is a bit of `m`. -/
def Within (m x : Word) : Prop := x &&& ~~~m = 0

theorem within_iff {m x : Word} : Within m x ↔ ∀ i, x.getLsbD i = true → m.getLsbD i = true := by
  constructor
  · intro h i hx
    have hi : (x &&& ~~~m).getLsbD i = false := by rw [show x &&& ~~~m = 0 from h]; simp
    have hlt := BitVec.lt_of_getLsbD hx
    simpa [hx, hlt] using hi
  · intro h
    apply BitVec.eq_of_getLsbD_eq
    intro i hi
    have := h i
    cases hx : x.getLsbD i <;> simp_all

theorem within_zero (m : Word) : Within m 0 := by simp [Within]

theorem within_or {m x y : Word} (hx : Within m x) (hy : Within m y) : Within m (x ||| y) := by
  rw [within_iff] at *
  intro i h
  rw [BitVec.getLsbD_or, Bool.or_eq_true] at h
  exact h.elim (hx i) (hy i)

theorem within_direction {m low high : Word} (hl : Within m low) (hh : Within m high) (v : Byte) :
    Within m (direction v low high) := by
  unfold direction
  split
  · exact hl
  · split
    · exact hh
    · exact within_zero m

theorem within_buttonBit {m native : Word} (hn : Within m native) (b mask : Byte) :
    Within m (buttonBit b mask native) := by
  unfold buttonBit
  split
  · exact hn
  · exact within_zero m

/-- Each of the eight masks is part of their union. -/
theorem within_allMasks {c : Config} {m : Word} (h : m ∈ c.masks) : Within (Config.allMasks c) m := by
  rw [within_iff]
  intro i hi
  simp only [Config.masks, List.mem_cons, List.not_mem_nil, or_false] at h
  simp only [Config.allMasks, BitVec.getLsbD_or, Bool.or_eq_true]
  rcases h with rfl | rfl | rfl | rfl | rfl | rfl | rfl | rfl <;> simp [hi]

/-- A snapshot has no bit outside the eight masks (R180). -/
theorem translate_within (c : Config) (raw : Word) : Within (Config.allMasks c) (translate c raw) := by
  have mask {m : Word} (h : m ∈ c.masks) : Within (Config.allMasks c) m := within_allMasks h
  unfold translate
  refine within_or (within_or (within_or (within_or (within_or ?_ ?_) ?_) ?_) ?_) ?_
  · exact within_direction (mask (by simp [Config.masks])) (mask (by simp [Config.masks])) _
  · exact within_direction (mask (by simp [Config.masks])) (mask (by simp [Config.masks])) _
  all_goals exact within_buttonBit (mask (by simp [Config.masks])) _ _

/-! ## A mask of one bit tests that bit -/

/-- A word of one bit is the power of two at its position. -/
theorem oneBit_eq_twoPow {m : Word} (h : OneBit m) : m = BitVec.twoPow 32 m.toNat.log2 := by
  apply BitVec.eq_of_toNat_eq
  rw [BitVec.toNat_twoPow, ← h, Nat.mod_eq_of_lt m.isLt]

/-- Testing a one-bit mask reads that bit of the word. -/
theorem has_eq_getLsbD {m : Word} (h : OneBit m) (x : Word) : has x m = x.getLsbD m.toNat.log2 := by
  have hm := oneBit_eq_twoPow h
  have hlt : m.toNat.log2 < 32 := by
    have h1 := m.isLt
    rw [h] at h1
    exact (Nat.pow_lt_pow_iff_right (by omega)).1 h1
  generalize m.toNat.log2 = k at hm hlt
  subst hm
  rw [has, BitVec.and_twoPow]
  cases x.getLsbD k
  · simp
  · have : BitVec.twoPow 32 k ≠ 0 := by
      intro h0
      have := congrArg (fun y : Word => y.getLsbD k) h0
      simp [hlt] at this
    simpa using this

theorem has_or {m : Word} (h : OneBit m) (x y : Word) : has (x ||| y) m = (has x m || has y m) := by
  simp [has_eq_getLsbD h]

@[simp] theorem has_zero (m : Word) : has 0#32 m = false := by simp [has]

/-- Different one-bit masks share no bit. -/
theorem has_of_ne {m n : Word} (hm : OneBit m) (hn : OneBit n) (hne : n ≠ m) : has n m = false := by
  rw [has_eq_getLsbD hm, oneBit_eq_twoPow hn]
  simp only [BitVec.getLsbD_twoPow, Bool.and_eq_false_iff, decide_eq_false_iff_not]
  right
  intro he
  refine hne ?_
  rw [oneBit_eq_twoPow hn, he, ← oneBit_eq_twoPow hm]

/-- A rising edge of a button is a button held (R181). -/
theorem has_of_has_edge {m cur prev : Word} (hm : OneBit m) (h : has (edge cur prev) m = true) :
    has cur m = true := by
  rw [has_eq_getLsbD hm] at *
  simp only [edge, BitVec.getLsbD_and, Bool.and_eq_true] at h
  exact h.1

theorem has_buttonBit_of_ne {m native : Word} (hm : OneBit m) (hn : OneBit native) (hne : native ≠ m) (b mask : Byte) :
    has (buttonBit b mask native) m = false := by
  unfold buttonBit
  split
  · exact has_of_ne hm hn hne
  · exact has_zero m

theorem has_direction_of_ne {m low high : Word} (hm : OneBit m) (hl : OneBit low) (hh : OneBit high)
    (hlm : low ≠ m) (hhm : high ≠ m) (v : Byte) : has (direction v low high) m = false := by
  unfold direction
  split
  · exact has_of_ne hm hl hlm
  · split
    · exact has_of_ne hm hh hhm
    · exact has_zero m

/-- The two directions of one axis never hold together: an axis is below AXIS_LO or above AXIS_HI, not both (R180). -/
theorem direction_exclusive {low high : Word} (hl : OneBit low) (hh : OneBit high) (hne : low ≠ high) (v : Byte) :
    ¬(has (direction v low high) low = true ∧ has (direction v low high) high = true) := by
  unfold direction
  split
  · simp [has_of_ne hh hl hne]
  · split
    · simp [has_of_ne hl hh hne.symm]
    · simp

/-- LEFT and RIGHT of a snapshot come from the first axis alone (R180). -/
theorem has_translate_left_right {c : Config} (h : c.MasksOk) (raw : Word) :
    has (translate c raw) c.mLeft = has (direction (axis0 raw) c.mLeft c.mRight) c.mLeft ∧
    has (translate c raw) c.mRight = has (direction (axis0 raw) c.mLeft c.mRight) c.mRight := by
  obtain ⟨⟨hA, hB, hSel, hSta, hU, hD, hL, hR⟩, hnd⟩ := h
  simp only [Config.masks, List.nodup_cons, List.mem_cons, List.not_mem_nil, or_false, not_or] at hnd
  obtain ⟨⟨-, -, -, -, -, nAL, nAR⟩, ⟨-, -, -, -, nBL, nBR⟩, ⟨-, -, -, nSelL, nSelR⟩, ⟨-, -, nStaL, nStaR⟩,
    ⟨-, nUL, nUR⟩, ⟨nDL, nDR⟩, -, -, -⟩ := hnd
  constructor
  · simp only [translate, has_or hL, has_direction_of_ne hL hU hD nUL nDL, has_buttonBit_of_ne hL hA nAL,
      has_buttonBit_of_ne hL hB nBL, has_buttonBit_of_ne hL hSel nSelL, has_buttonBit_of_ne hL hSta nStaL,
      Bool.or_false]
  · simp only [translate, has_or hR, has_direction_of_ne hR hU hD nUR nDR, has_buttonBit_of_ne hR hA nAR,
      has_buttonBit_of_ne hR hB nBR, has_buttonBit_of_ne hR hSel nSelR, has_buttonBit_of_ne hR hSta nStaR,
      Bool.or_false]

/-- A snapshot never shows LEFT and RIGHT together (R180, R182). -/
theorem translate_left_right_exclusive {c : Config} (h : c.MasksOk) (raw : Word) :
    ¬(has (translate c raw) c.mLeft = true ∧ has (translate c raw) c.mRight = true) := by
  obtain ⟨hl, hr⟩ := has_translate_left_right h raw
  obtain ⟨⟨-, -, -, -, -, -, hL, hR⟩, hnd⟩ := h
  have hne : c.mLeft ≠ c.mRight := by
    simp only [Config.masks, List.nodup_cons, List.mem_cons, not_or] at hnd
    tauto
  rw [hl, hr]
  exact direction_exclusive hL hR hne _

/-! ## The gestures -/

/-- The bits of a gesture word, from its three parts (R40). -/
theorem gestBits_getLsbD : ∀ saveReset next prev : Bool,
    (BitVec.ofBool saveReset ++ BitVec.ofBool next ++ BitVec.ofBool prev).getLsbD 0 = prev ∧
    (BitVec.ofBool saveReset ++ BitVec.ofBool next ++ BitVec.ofBool prev).getLsbD 1 = next := by decide

/-- PREV needs an edge of LEFT (R182). -/
theorem gesture_prev {c : Config} {cur pushed : Word} (h : (gesture c cur pushed).getLsbD 0 = true) :
    has pushed c.mLeft = true := by
  unfold gesture at h
  split at h
  · exact (gestBits_getLsbD ..).1.symm.trans h
  · simp at h

/-- NEXT needs an edge of RIGHT (R182). -/
theorem gesture_next {c : Config} {cur pushed : Word} (h : (gesture c cur pushed).getLsbD 1 = true) :
    has pushed c.mRight = true := by
  unfold gesture at h
  split at h
  · exact (gestBits_getLsbD ..).2.symm.trans h
  · simp at h

/-- A frame tick never reports PREV and NEXT together (R182). -/
theorem frameGest_exclusive {c : Config} (h : c.MasksOk) (p : Pad) :
    ¬((frameGest c p).getLsbD 0 = true ∧ (frameGest c p).getLsbD 1 = true) := by
  rintro ⟨h0, h1⟩
  have hLR := translate_left_right_exclusive h p.raw0
  obtain ⟨⟨-, -, -, -, -, -, hL, hR⟩, -⟩ := h
  exact hLR ⟨has_of_has_edge hL (gesture_prev h0), has_of_has_edge hR (gesture_next h1)⟩

theorem sysBit_iff (g : BitVec 3) : sysBit g = true ↔ g ≠ 0 := bne_iff_ne

end Sys2Proof.Machine
end

section
/-! PROOFS. The invariants of the state (R26 to R42, R180, R182, R221, R223, R252): one rule per part of the state that
is written, then every command, every move and every step. -/

namespace Sys2Proof.Machine

variable {s t u v : State}

/-! ## One rule per part of the state -/

theorem SameMachine.inv (h : SameMachine s t) (hi : s.Inv) : t.Inv := by
  cases h
  exact { hi with }

theorem State.Inv.setLbx {l : Lbx} (hi : s.Inv) (hl : l.fltValid = true → l.fltSel ≠ l.fillSel)
    (h0 : LineInv s.cfg l.pix0) (h1 : LineInv s.cfg l.pix1) (hm : Memory.wf (s.setLbx l)) : (s.setLbx l).Inv :=
  { hi with lbx := hl, line0 := h0, line1 := h1, memory := hm }

/-- A new owner tag over the same pixels. -/
theorem State.Inv.setOwner {l : Lbx} (hi : s.Inv) (hl : l.fltValid = true → l.fltSel ≠ l.fillSel)
    (h0 : l.pix0 = s.lbx.pix0) (h1 : l.pix1 = s.lbx.pix1) : (s.setLbx l).Inv := by
  obtain ⟨hc0, hc1, hrest⟩ := hi.memory
  exact hi.setLbx hl (h0 ▸ hi.line0) (h1 ▸ hi.line1) ⟨h0 ▸ hc0, h1 ▸ hc1, hrest⟩

/-- A visible pixel of PIXEL_W bits keeps R26. -/
theorem lineInv_put {c : Config} {m : Store Word} (h : LineInv c m) {idx : Nat} (hi : idx < c.visW) (d : Word) :
    LineInv c (Store.put (c.marginL + idx) (pixelOf c d) m) := by
  intro e he
  rcases Store.mem_put he with rfl | he
  · refine ⟨by simp, by simpa using hi, ?_⟩
    calc (pixelOf c d).toNat ≤ lowBits c.pixelW d := by
          rw [pixelOf, BitVec.toNat_ofNat]; exact Nat.mod_le _ _
      _ < 2 ^ c.pixelW := Nat.mod_lt _ (by positivity)
  · exact h e he

theorem State.Inv.writePixel {idx : Nat} (hi : s.Inv) (hx : idx < s.cfg.visW) (b : BitVec 1) (d : Word) :
    (s.setLbx (s.lbx.writePixel b (s.cfg.marginL + idx) (pixelOf s.cfg d))).Inv := by
  refine hi.setLbx ?_ ?_ ?_ (Memory.wf_writePixel hi.memory ..)
  · obtain ⟨hfill, -, hval, hsel⟩ := s.lbx.writePixel_flags b (s.cfg.marginL + idx) (pixelOf s.cfg d)
    rw [hfill, hval, hsel]
    exact hi.lbx
  · unfold Lbx.writePixel
    split
    · exact lineInv_put hi.line0 hx d
    · exact hi.line0
  · unfold Lbx.writePixel
    split
    · exact hi.line1
    · exact lineInv_put hi.line1 hx d

theorem State.Inv.writeSample (hi : s.Inv) {j : Nat} (hj : j < s.cfg.ringN) (p : SamplePair) :
    (s.setArb (s.arb.writeSample j p)).Inv := by
  refine { hi with samp := fun e he => ?_, memory := Memory.wf_writeSample hi.memory j p }
  rcases Store.mem_put he with rfl | he
  · exact hj
  · exact hi.samp e he

/-- New cursors over the same samples and mixer inputs (R28 to R30). -/
theorem State.Inv.setCursors {a : Arb} (hi : s.Inv) (hr : RingInv (s.setArb a)) (hs : a.samp = s.arb.samp)
    (hw : a.wave = s.arb.wave) : (s.setArb a).Inv := by
  obtain ⟨wr, rd, samp, wave⟩ := a
  subst hs hw
  exact { hi with ring := hr }

theorem waveOf_lt (c : Config) (d : Word) : (waveOf c d).toNat < 2 ^ c.waveW :=
  calc (waveOf c d).toNat ≤ lowBits c.waveW d := by
        rw [waveOf, BitVec.toNat_ofNat]; exact Nat.mod_le _ _
    _ < 2 ^ c.waveW := Nat.mod_lt _ (by positivity)

theorem State.Inv.setWave (hi : s.Inv) (k : Nat) (d : Word) :
    (s.setArb { s.arb with wave := s.arb.wave.set k (waveOf s.cfg d) }).Inv := by
  refine { hi with wave := ?_ }
  obtain ⟨h1, h2, h3, h4, h5⟩ := hi.wave
  have hd := waveOf_lt s.cfg d
  unfold Waves.set
  split
  · exact ⟨hd, h2, h3, h4, h5⟩
  · exact ⟨h1, hd, h3, h4, h5⟩
  · exact ⟨h1, h2, hd, h4, h5⟩
  · exact ⟨h1, h2, h3, hd, h5⟩
  · exact ⟨h1, h2, h3, h4, hd⟩
  · exact ⟨h1, h2, h3, h4, h5⟩

/-- A new latch and display state, with the gestures as they were (R42). -/
theorem State.Inv.setLatch {x : Xfo} {f : Fsg} (hi : s.Inv) (hp : x.ack = true ↔ f.dstate = .parkedForFlash)
    (hg : f.gest = s.fsg.gest) (hs : f.sys = s.fsg.sys) : ((s.setXfo x).setFsg f).Inv := by
  obtain ⟨gest, sys, dstate, lock⟩ := f
  subst hg hs
  exact { hi with park := hp }

theorem State.Inv.setRequest (hi : s.Inv) (b : Bool) : (s.setXfo { s.xfo with req := b }).Inv := { hi with }

theorem State.Inv.setRaw (hi : s.Inv) (slot : Nat) (w : Word) : (s.setPad (s.pad.setRaw slot w)).Inv := by
  refine { hi with pad := ?_ }
  unfold Pad.setRaw
  split
  · exact hi.pad
  · exact hi.pad

/-- The frame tick keeps R39, R41, R180 and R182. -/
theorem State.Inv.frame (hi : s.Inv) (hM : s.cfg.MasksOk) :
    ((s.setPad (framePad s.cfg s.pad)).setFsg
      { s.fsg with gest := frameGest s.cfg s.pad, sys := sysBit (frameGest s.cfg s.pad) }).Inv :=
  { hi with
    pad := ⟨rfl, translate_within s.cfg s.pad.raw0, translate_within s.cfg s.pad.raw1⟩
    gest := ⟨sysBit_iff _, frameGest_exclusive hM s.pad⟩ }

theorem State.Inv.takeFault (hi : s.Inv) (c : FaultCode) : (s.takeFault c).Inv := by
  refine { hi with fault := ?_ }
  unfold FaultInv
  rw [State.takeFault_ctlFault]
  split
  · exact c.code_range.2
  · exact hi.fault

theorem State.Inv.setEnv {e : Env} (hi : s.Inv) (he : EnvInv (s.setEnv e)) (hn : Store.Canonical e.nv)
    (hs : Store.Canonical e.save) : (s.setEnv e).Inv := by
  obtain ⟨h0, h1, h2, -, -⟩ := hi.memory
  exact { hi with env := he, memory := ⟨h0, h1, h2, hn, hs⟩ }

/-- A new environment with the same byte memories: only R223 and R232 are at stake. -/
theorem State.Inv.setCatalog {e : Env} (hi : s.Inv) (hn : e.nv = s.env.nv) (hs : e.save = s.env.save)
    (hsel : e.catalog ≠ [] → e.selectedIndex < e.catalog.length)
    (hzero : e.catalog = [] ∨ e.mode = .singleImage → e.selectedIndex = 0)
    (hpar : e.parsed = false → e.catalog = []) : (s.setEnv e).Inv := by
  obtain ⟨hsave, -, -, -⟩ := hi.env
  obtain ⟨-, -, -, hcn, hcs⟩ := hi.memory
  exact hi.setEnv ⟨hs ▸ hsave, hsel, hzero, hpar⟩ (hn ▸ hcn) (hs ▸ hcs)

/-- A block with every register at its reset value meets the invariants of the block (R27, R30, R42, R47). -/
theorem inv_of_reset_registers (hw : s.cfg.WellFormed) (hb : SameBlock (State.resetWith s.cfg) s) (he : EnvInv s)
    (hm : Memory.wf s) : s.Inv := by
  obtain ⟨hl : s.lbx = Lbx.reset, ha : s.arb = Arb.reset, hx : s.xfo = Xfo.reset, hp : s.pad = Pad.reset,
    hf : s.fsg = Fsg.reset, hc : s.ctlFault = 0⟩ := hb
  obtain ⟨-, ⟨hN, -⟩, -⟩ := hw
  exact {
    lbx := by simp [hl, Lbx.reset]
    line0 := by simp [hl, Lbx.reset]
    line1 := by simp [hl, Lbx.reset]
    ring := by simpa [RingInv, ha, Arb.reset, unread] using Nat.lt_of_succ_le hN
    samp := by simp [ha, Arb.reset]
    wave := by simp [WaveInv, ha, Arb.reset, Waves.reset]
    park := by simp [ParkInv, hx, hf, Xfo.reset, Fsg.reset]
    fault := by simp [hc]
    pad := by simp [PadInv, hp, Pad.reset]
    gest := by simp [GestInv, hf, Fsg.reset]
    env := he
    memory := hm }

theorem State.Inv.resetBlock (hi : s.Inv) (hw : s.cfg.WellFormed) : s.resetBlock.Inv :=
  inv_of_reset_registers hw ⟨rfl, rfl, rfl, rfl, rfl, rfl⟩ hi.env (Memory.wf_resetBlock hi.memory)

/-! ## Every command -/

theorem bufferOther_ne : ∀ b : BitVec 1, b ≠ 1 - b := by decide

/-- Between two states that are not the park, the acknowledge flag stays 0 (R42, R204). -/
theorem ParkInv.of_not_parked (hp : ParkInv s) (hd : s.fsg.dstate ≠ .parkedForFlash) {d : DState}
    (hd' : d ≠ .parkedForFlash) : s.xfo.ack = true ↔ d = .parkedForFlash :=
  iff_of_false (mt hp.1 hd) hd'

theorem RingInv.advanceWrite (hr : RingInv s) {n : Nat} (hN : 1 ≤ s.cfg.ringN) (hn : n ≤ writable s.cfg s.arb) :
    RingInv (s.setArb { s.arb with wr := advance s.cfg s.arb.wr n }) := by
  obtain ⟨hw, hrd, hu⟩ := hr
  have hfit : unread s.cfg s.arb + n ≤ s.cfg.ringN := by
    unfold writable at hn
    omega
  exact ⟨advance_lt hN _ _, hrd, (unread_advanceWrite hw hrd hu hn).trans_le hfit⟩

theorem RingInv.advanceRead (hr : RingInv s) {n : Nat} (hN : 1 ≤ s.cfg.ringN) (hn : n ≤ readable s.cfg s.arb) :
    RingInv (s.setArb { s.arb with rd := advance s.cfg s.arb.rd n }) := by
  obtain ⟨hw, hrd, hu⟩ := hr
  exact ⟨hw, advance_lt hN _ _, (unread_advanceRead hw hrd hu hn).trans_le ((Nat.sub_le _ _).trans hu)⟩

/-- Every command that changes state keeps the invariants. -/
theorem Effect.inv {i : Instr} (he : Effect i s u) (hw : s.cfg.WellFormed) (hi : s.Inv) : u.Inv := by
  obtain ⟨-, ⟨hN, -⟩, hM, -⟩ := hw
  cases he with
  | acquire => exact hi.setOwner hi.lbx rfl rfl
  | wpix _ idx ha hx => exact hi.writePixel hx ..
  | publish => exact hi.setOwner (fun _ => bufferOther_ne _) rfl rfl
  | giveBack => exact hi.setOwner nofun rfl rfl
  | wsamp _ idx hx => exact hi.writeSample (ringPos_lt hN _ _) _
  | mixw _ idx hx => exact hi.writeSample (ringPos_lt hN _ _) _
  | advw _ hn => exact hi.setCursors (RingInv.advanceWrite hi.ring hN hn) rfl rfl
  | advr _ hn => exact hi.setCursors (RingInv.advanceRead hi.ring hN hn) rfl rfl
  | wave _ idx => exact hi.setWave idx _
  | request => exact hi.setRequest true
  | flash =>
    obtain ⟨-, -, -, hcn, hcs⟩ := hi.memory
    exact hi.setEnv hi.env (Store.canonical_putAll _ _ hcn) hcs
  | release => exact hi.setRequest false
  | ack => exact hi.setLatch (by simp) rfl rfl
  | resume => exact hi.setLatch (by simp) rfl rfl
  | report _ idx => exact hi.setRaw idx _
  | detach _ idx => exact hi.setRaw idx _
  | frame => exact hi.frame hM
  | lockGained _ hd => exact hi.setLatch (x := s.xfo) (ParkInv.of_not_parked hi.park (by simp [hd]) nofun) rfl rfl
  | lockLost _ hd => exact hi.setLatch (x := s.xfo) (ParkInv.of_not_parked hi.park (by simp [hd]) nofun) rfl rfl
  | lock => exact hi.setLatch (x := s.xfo) hi.park rfl rfl

/-! ## Every move -/

/-- Bytes written inside the save region keep R221. -/
theorem State.Inv.saveWrite (hi : s.Inv) {off : Nat} {bytes : List Byte}
    (hb : off + bytes.length ≤ s.cfg.slotSize) : (s.setEnv (s.env.saveWrite off bytes)).Inv := by
  obtain ⟨hsave, hcat⟩ := hi.env
  obtain ⟨-, -, -, hcn, hcs⟩ := hi.memory
  refine hi.setEnv ⟨fun e he => ?_, hcat⟩ hcn (Store.canonical_putAll _ _ hcs)
  rcases Store.mem_putAll _ _ he with ⟨-, he⟩ | he
  · exact lt_of_lt_of_le he hb
  · exact hsave e he

theorem State.Inv.setDirty (hi : s.Inv) (b : Bool) : (s.setEnv { s.env with dirty := b }).Inv := { hi with }

theorem State.Inv.loadSave (hi : s.Inv) : (s.setEnv (loadSave s.cfg s.env)).Inv := by
  unfold Machine.loadSave
  split
  · exact hi
  · exact (hi.saveWrite (by simp [Env.nvRead_length])).setDirty false

/-- Moving the selection round a non-empty catalog of several images keeps R223. -/
theorem State.Inv.select (hi : s.Inv) (h : ¬(s.env.mode = .singleImage ∨ s.env.catalog = [])) (n : Nat) :
    (s.setEnv { s.env with selectedIndex := n % s.env.catalog.length }).Inv := by
  obtain ⟨-, -, -, hpar⟩ := hi.env
  refine hi.setCatalog rfl rfl (fun hne => Nat.mod_lt _ (List.length_pos_iff.2 hne)) (fun hz => ?_) hpar
  exact absurd hz.symm h

theorem State.Inv.catalogNext (hi : s.Inv) : (s.setEnv (catalogNext s.env)).Inv := by
  unfold Machine.catalogNext
  split
  · exact hi
  · exact hi.select ‹_› _

theorem State.Inv.catalogPrev (hi : s.Inv) : (s.setEnv (catalogPrev s.env)).Inv := by
  unfold Machine.catalogPrev
  split
  · exact hi
  · exact hi.select ‹_› _

/-- The first `init` finds the selection at 0, which every catalog allows (R223). -/
theorem State.Inv.catalogInit (hi : s.Inv) (base : Nat) : (s.setEnv (catalogInit s.cfg base s.env)).Inv := by
  obtain ⟨-, -, hzero, hpar⟩ := hi.env
  cases hp : s.env.parsed
  · have h0 : s.env.selectedIndex = 0 := hzero (.inl (hpar hp))
    rw [catalogInit_first _ _ _ hp]
    refine hi.setCatalog rfl rfl (fun hne => ?_) (fun _ => h0) nofun
    change s.env.selectedIndex < _
    rw [h0]
    exact List.length_pos_iff.2 hne
  · rw [catalogInit_parsed _ _ _ hp]
    exact hi

theorem Move.inv (hm : Move s u) (hw : s.cfg.WellFormed) (hi : s.Inv) : u.Inv := by
  cases hm with
  | stays => exact hi
  | fault _ c => exact hi.takeFault c
  | command he => exact he.inv hw hi
  | emulatorWrite _ off bytes hb => exact hi.saveWrite hb
  | setDirty _ b => exact hi.setDirty b
  | load => exact hi.loadSave
  | selectNext => exact hi.catalogNext
  | selectPrev => exact hi.catalogPrev
  | init _ base => exact hi.catalogInit base

/-! ## Every step -/

/-- Settles O50: a step is the reset input or one move, and both keep the invariants. -/
theorem everyStepKeepsTheInvariants : Obligations.EveryStepKeepsTheInvariants := by
  intro s t hi h
  have hw : s.cfg.WellFormed := (step_next h).1
  rcases step_moves h with ⟨-, hs⟩ | ⟨u, v, hsu, huv, hvt⟩
  · exact hs.inv (hi.resetBlock hw)
  · have hu := hsu.inv hi
    cases hsu
    exact hvt.inv (huv.inv hw hu)

/-- Settles O51: the registers have their reset values; the environment lists nothing and has no catalog. -/
theorem resetMeetsTheInvariants : Obligations.ResetMeetsTheInvariants := by
  intro c hw
  have he : EnvInv (State.resetWith c) := ⟨nofun, fun hne => absurd rfl hne, fun _ => rfl, fun _ => rfl⟩
  exact inv_of_reset_registers hw ⟨rfl, rfl, rfl, rfl, rfl, rfl⟩ he (Memory.wf_resetWith c)

/-- Every mixer input is 0 after reset; other numbers name none and read as 0 too (R32, R47). -/
theorem Waves.get_reset (k : Nat) : Waves.reset.get k = 0 := by
  unfold Waves.get
  split <;> rfl

/-- Settles O52: the reset record gives each register its value; the five mixer inputs are one lemma. -/
theorem resetGivesEveryRegisterItsValue : Obligations.ResetGivesEveryRegisterItsValue := by
  intro c
  have hlbx : (State.resetWith c).lbx = Lbx.reset := rfl
  have harb : (State.resetWith c).arb = Arb.reset := rfl
  have hxfo : (State.resetWith c).xfo = Xfo.reset := rfl
  have hpad : (State.resetWith c).pad = Pad.reset := rfl
  have hfsg : (State.resetWith c).fsg = Fsg.reset := rfl
  rw [hlbx, harb, hxfo, hpad, hfsg]
  exact ⟨rfl, rfl, rfl, rfl, rfl, rfl, rfl, Waves.get_reset, rfl, rfl, rfl, rfl, rfl, rfl, rfl, rfl, rfl, rfl, rfl, rfl,
    rfl⟩

end Sys2Proof.Machine
end

section
/-! PROOFS. What no step may touch (R27, R31, R117, R141), and the flash rendezvous (R35, R42, R165, R166). -/

namespace Sys2Proof.Machine

variable {s t u v : State}

/-! ## The buffer in flight and the unread pairs -/

theorem SameMachine.pixel_eq (h : SameMachine s t) (b : BitVec 1) (j : Nat) : t.pixel b j = s.pixel b j := by
  cases h
  rfl

theorem SameMachine.sample_eq (h : SameMachine s t) (j : Nat) : t.sample j = s.sample j := by
  cases h
  rfl

/-- No command writes a buffer that is not the fill target; `LBX.WPIX` is the one that writes pixels (R111, R117). -/
theorem Effect.pixel_eq {i : Instr} (he : Effect i s u) {b : BitVec 1} (hb : b ≠ s.lbx.fillSel) (j : Nat) :
    u.pixel b j = s.pixel b j := by
  cases he
  case wpix => simp [State.pixel_writePixel, hb]
  all_goals rfl

theorem Move.pixel_eq (hm : Move s u) {b : BitVec 1} (hb : b ≠ s.lbx.fillSel) (j : Nat) :
    u.pixel b j = s.pixel b j := by
  cases hm
  case command he => exact he.pixel_eq hb j
  all_goals rfl

/-- A store through the write window leaves the read window alone (R31). -/
theorem sample_writeSample_of_unread (hr : RingInv s) {i j : Nat} (hi : i < writable s.cfg s.arb)
    (hj : j < readable s.cfg s.arb) (p : SamplePair) :
    (s.setArb (s.arb.writeSample (ringPos s.cfg s.arb.wr i) p)).sample (ringPos s.cfg s.arb.rd j) =
      s.sample (ringPos s.cfg s.arb.rd j) := by
  obtain ⟨hw, hrd, hu⟩ := hr
  rw [State.sample_writeSample, if_neg (windows_disjoint hw hrd hu hi hj).symm]

/-- No command writes an unread pair; `ARB.WSAMP` and `ARB.MIXW` are the ones that write pairs (R132, R135). -/
theorem Effect.sample_eq {i : Instr} (he : Effect i s u) (hr : RingInv s) {j : Nat} (hj : j < readable s.cfg s.arb) :
    u.sample (ringPos s.cfg s.arb.rd j) = s.sample (ringPos s.cfg s.arb.rd j) := by
  cases he
  case wsamp hi => exact sample_writeSample_of_unread hr hi hj _
  case mixw hi => exact sample_writeSample_of_unread hr hi hj _
  all_goals rfl

theorem Move.sample_eq (hm : Move s u) (hr : RingInv s) {j : Nat} (hj : j < readable s.cfg s.arb) :
    u.sample (ringPos s.cfg s.arb.rd j) = s.sample (ringPos s.cfg s.arb.rd j) := by
  cases hm
  case command he => exact he.sample_eq hr hj
  all_goals rfl

/-- Settles O19: the one command that writes pixels writes the fill target, which is not the buffer in flight. -/
theorem inFlightPixelsNeverChange : Obligations.InFlightPixelsNeverChange := by
  intro s t hinv hv hr h j
  have hb : s.lbx.fltSel ≠ s.lbx.fillSel := hinv hv
  obtain ⟨u, v, hsu, huv, hvt⟩ := step_moves_of_not_reset hr h
  rw [hvt.pixel_eq, ← hsu.pixel_eq]
  cases hsu
  exact huv.pixel_eq hb j

/-- Settles O31: the two commands that write pairs stay in the write window, which is disjoint from the read window. -/
theorem unreadPairsAreNeverOverwritten : Obligations.UnreadPairsAreNeverOverwritten := by
  intro s t hinv hr h j hj
  obtain ⟨u, v, hsu, huv, hvt⟩ := step_moves_of_not_reset hr h
  rw [hvt.sample_eq, ← hsu.sample_eq]
  cases hsu
  exact huv.sample_eq hinv hj

/-! ## The flash operation and the latch -/

/-- Only the flash operation changes the non-volatile storage, and it runs in the grant (R157, R226). -/
theorem Effect.nv_eq_or_grant {i : Instr} (he : Effect i s u) :
    u.env.nv = s.env.nv ∨ (s.xfo.req = true ∧ s.xfo.ack = true) := by
  cases he
  case flash hr ha _ => exact .inr ⟨hr, ha⟩
  all_goals exact .inl rfl

theorem loadSave_nv (c : Config) (e : Env) : (loadSave c e).nv = e.nv := by
  unfold loadSave
  split <;> rfl

theorem catalogNext_nv (e : Env) : (catalogNext e).nv = e.nv := by rw [catalogNext_eq]

theorem catalogPrev_nv (e : Env) : (catalogPrev e).nv = e.nv := by rw [catalogPrev_eq]

theorem catalogInit_nv (c : Config) (base : Nat) (e : Env) : (catalogInit c base e).nv = e.nv := by
  unfold catalogInit
  split <;> rfl

theorem Move.nv_eq_or_grant (hm : Move s u) : u.env.nv = s.env.nv ∨ (s.xfo.req = true ∧ s.xfo.ack = true) := by
  cases hm
  case command he => exact he.nv_eq_or_grant
  case load => exact .inl (loadSave_nv ..)
  case selectNext => exact .inl (catalogNext_nv _)
  case selectPrev => exact .inl (catalogPrev_nv _)
  case init => exact .inl (catalogInit_nv ..)
  all_goals exact .inl rfl

theorem SameMachine.nv_eq (h : SameMachine s t) : t.env.nv = s.env.nv := by
  cases h
  rfl

/-- A step that changes the storage runs in the grant (R157). -/
theorem step_nv_eq_or_grant (h : step s = .next t) :
    t.env.nv = s.env.nv ∨ (s.xfo.req = true ∧ s.xfo.ack = true) := by
  rcases step_moves h with ⟨-, hs⟩ | ⟨u, v, hsu, huv, hvt⟩
  · exact .inl hs.nv_eq
  · rw [hvt.nv_eq, ← hsu.nv_eq]
    cases hsu
    exact huv.nv_eq_or_grant

/-- The first fault of a live block (R251). -/
theorem raise_live (c : FaultCode) (h : s.ctlFault = 0) : raise c s = .next (s.faulted c.code) :=
  congrArg _ (s.takeFault_live c h)

/-- The three commands of the display core that touch a line buffer fault outside Streaming (R114 to R116). -/
theorem exec_lineBuffer_not_streaming {i : Instr} (hi : i = .lbxPoll ∨ (∃ idx, i = .lbxRpix idx) ∨ i = .lbxReturn)
    (hd : s.fsg.dstate ≠ .streaming) : exec i s = raise .lbxNotStreaming s := by
  rcases hi with rfl | ⟨idx, rfl⟩ | rfl <;> exact if_pos hd

/-- Settles O38: a flash operation needs the grant, which is the park (R42); and a parked display core is not
streaming. -/
theorem flashRunsOnlyWhileParked : Obligations.FlashRunsOnlyWhileParked := by
  constructor
  · intro s t hpark h hne
    obtain ⟨hr, ha⟩ := (step_nv_eq_or_grant h).resolve_left hne
    exact ⟨hpark.1 ha, hr, ha⟩
  · intro s i hf hd hi
    rw [exec_lineBuffer_not_streaming hi (by simp [hd]), raise_live _ hf]
    rfl

/-- A latch is its two flags (R33 to R35). -/
theorem Xfo.eq_mk {x : Xfo} {r a : Bool} (hr : x.req = r) (ha : x.ack = a) : x = ⟨r, a⟩ := by
  rw [← hr, ← ha]

/-- The four commands that move the latch, each along one edge of the cycle (R35, R155, R158, R162, R163). -/
theorem Effect.latch_cycle {i : Instr} (he : Effect i s u) (hp : ParkInv s) :
    u.xfo = s.xfo ∨
    (i = .xfoRequest ∧ s.xfo = ⟨false, false⟩ ∧ u.xfo = ⟨true, false⟩) ∨
    (i = .xfoAck ∧ s.xfo = ⟨true, false⟩ ∧ u.xfo = ⟨true, true⟩) ∨
    (i = .xfoRelease ∧ s.xfo = ⟨true, true⟩ ∧ u.xfo = ⟨false, true⟩) ∨
    (i = .xfoResume ∧ s.xfo = ⟨false, true⟩ ∧ u.xfo = ⟨false, false⟩) := by
  cases he
  case request hr ha => exact .inr (.inl ⟨rfl, Xfo.eq_mk hr ha, Xfo.eq_mk rfl ha⟩)
  case ack hd hr =>
    have ha : s.xfo.ack = false := Bool.eq_false_iff.2 (mt hp.1 (by simp [hd]))
    exact .inr (.inr (.inl ⟨rfl, Xfo.eq_mk hr ha, Xfo.eq_mk hr rfl⟩))
  case release hr ha => exact .inr (.inr (.inr (.inl ⟨rfl, Xfo.eq_mk hr ha, Xfo.eq_mk rfl ha⟩)))
  case resume hd hr => exact .inr (.inr (.inr (.inr ⟨rfl, Xfo.eq_mk hr (hp.2 hd), Xfo.eq_mk hr rfl⟩)))
  all_goals exact .inl rfl

/-- Settles O39: an answer or a fault leaves the latch alone, and an effect moves it along the cycle. -/
theorem latchMovesAroundItsCycle : Obligations.LatchMovesAroundItsCycle := by
  intro i s t hp h
  rcases exec_next h with ⟨st, d, rfl⟩ | ⟨c, rfl⟩ | ⟨u, st, d, hu, rfl⟩
  · exact .inl (State.respond_xfo ..)
  · exact .inl (State.takeFault_xfo ..)
  · rw [State.respond_xfo]
    exact hu.latch_cycle hp

end Sys2Proof.Machine
end

section
/-! PROOFS. Dispatch (R93 step 4), the commands that only read (R66), and the one writer of every shared flag (R74). -/

namespace Sys2Proof.Machine

variable {i : Instr} {s t u : State}

/-! ## Dispatch -/

/-- The word of a port's own `CTL.FAULT` decodes to that command (R255). -/
theorem decode_ctlFaultOf (p : Port) : decode (encode (ctlFaultOf p)) = .ok (ctlFaultOf p) := by
  cases p <;> decide

/-- A live block serves every command of the port it arrives on by its meaning: the port's own `CTL.FAULT`, which
step 1 of R93 takes out first, too. -/
theorem serve_decoded {p : Port} {w d : Word} (hd : decode w = .ok i) (hp : i.port = p) (hf : s.ctlFault = 0) :
    serve p w d s = exec i (s.present p d) := by
  by_cases hc : w = encode (ctlFaultOf p)
  · subst hc
    obtain rfl : ctlFaultOf p = i := Except.ok.inj ((decode_ctlFaultOf p).symm.trans hd)
    exact serve_ctlFault p d
  · exact serve_live hd hp hf hc

/-- Settles O5: the step takes the input, and a live block serves it by the meaning of its command. -/
theorem stepRunsTheDecodedCommand : Obligations.StepRunsTheDecodedCommand := by
  intro s p w d rest i hw hq hd hp hf
  calc step s = serve p w d { s with queue := rest } := step_input hw hq
    _ = exec i (s.serving p d rest) := serve_decoded hd hp hf

/-! ## The commands that only read -/

/-- A check of a command's rule ends in a next state when both its sides do. -/
theorem ite_answers {c : Prop} [Decidable c] {r r' : Result} (h : ∃ t, r = .next t) (h' : ∃ t, r' = .next t) :
    ∃ t, (if c then r else r') = .next t := by
  split
  · exact h
  · exact h'

/-- Every command but the flash operation has a next state from every state (R92, R251; R226 for the exception). The
cases are grouped by the number of checks in the command's rule. -/
theorem exec_answers (hi : i ≠ .xfoExec) (s : State) : ∃ t, exec i s = .next t := by
  cases i
  case xfoExec => exact absurd rfl hi
  case lbxPublish | lbxRpix =>
    exact ite_answers ⟨_, rfl⟩ (ite_answers ⟨_, rfl⟩ (ite_answers ⟨_, rfl⟩ ⟨_, rfl⟩))
  case lbxWpix | lbxPoll | lbxReturn | xfoWaitack | xfoWaitresume | xfoAck | xfoResume =>
    exact ite_answers ⟨_, rfl⟩ (ite_answers ⟨_, rfl⟩ ⟨_, rfl⟩)
  case arbWsamp | arbAdvw | arbWave | arbMixw | arbRsamp | arbAdvr | xfoRequest | xfoRelease | padCur | padRaw |
      padReport | padDetach =>
    exact ite_answers ⟨_, rfl⟩ ⟨_, rfl⟩
  case fsgDsync =>
    simp only [exec, execFsgDsync]
    split
    · exact ite_answers ⟨_, rfl⟩ ⟨_, rfl⟩
    · exact ite_answers ⟨_, rfl⟩ ⟨_, rfl⟩
    · exact ⟨_, rfl⟩
  all_goals exact ⟨_, rfl⟩

/-- A command with an effect is not one that R66 lists. -/
theorem Effect.not_pureRead (he : Effect i s u) : isPureRead i = false := by
  cases he <;> rfl

/-- Settles O48: a pure read is not the flash operation, so it has a next state, and it has no effect; what is left is
an answer or a fault. -/
theorem pureReadsChangeNothing : Obligations.PureReadsChangeNothing := by
  intro i s hp hf
  have hi : i ≠ .xfoExec := by
    rintro rfl
    cases hp
  obtain ⟨t, ht⟩ := exec_answers hi s
  rw [ht]
  rcases exec_next ht with ⟨st, d, rfl⟩ | ⟨c, rfl⟩ | ⟨u, st, d, hu, -⟩
  · exact .inl ⟨st, d, rfl⟩
  · exact .inr ⟨c.code, congrArg _ (s.takeFault_live c hf)⟩
  · rw [hu.not_pureRead] at hp
    cases hp

/-! ## The writers of the shared flags -/

/-- Port A alone writes the fill target's number, the acquisition flag, the write cursor and the request flag. -/
theorem Effect.keeps_portA_flags (he : Effect i s u) (hp : i.port ≠ .a) :
    u.lbx.fillSel = s.lbx.fillSel ∧ u.lbx.acq = s.lbx.acq ∧ u.arb.wr = s.arb.wr ∧ u.xfo.req = s.xfo.req := by
  cases he
  case acquire | wpix | publish | wsamp | mixw | advw | wave | request | flash | release | frame =>
    exact absurd rfl hp
  all_goals exact ⟨rfl, rfl, rfl, rfl⟩

/-- Port B alone writes the read cursor, the acknowledge flag and the display state. -/
theorem Effect.keeps_portB_flags (he : Effect i s u) (hp : i.port ≠ .b) :
    u.arb.rd = s.arb.rd ∧ u.xfo.ack = s.xfo.ack ∧ u.fsg.dstate = s.fsg.dstate := by
  cases he
  case giveBack | advr | ack | resume | lockGained | lockLost => exact absurd rfl hp
  all_goals exact ⟨rfl, rfl, rfl⟩

/-- Port X alone writes the pad latches and the line lock. -/
theorem Effect.keeps_portX_flags (he : Effect i s u) (hp : i.port ≠ .x) :
    u.pad.raw0 = s.pad.raw0 ∧ u.pad.raw1 = s.pad.raw1 ∧ u.fsg.lock = s.fsg.lock := by
  cases he
  case report | detach | lock => exact absurd rfl hp
  all_goals exact ⟨rfl, rfl, rfl⟩

/-- The owner tag's valid bit is set by `LBX.PUBLISH` and cleared by `LBX.RETURN` (R112, R116). -/
theorem Effect.fltValid_writers (he : Effect i s u) (hv : u.lbx.fltValid ≠ s.lbx.fltValid) :
    (i = .lbxPublish ∧ s.lbx.fltValid = false) ∨ (i = .lbxReturn ∧ s.lbx.fltValid = true) := by
  cases he
  case publish _ _ hfree => exact .inl ⟨rfl, hfree⟩
  case giveBack _ htaken => exact .inr ⟨rfl, htaken⟩
  case wpix =>
    obtain ⟨-, -, hkept, -⟩ := Lbx.writePixel_flags s.lbx s.lbx.fillSel _ _
    exact absurd hkept hv
  all_goals exact absurd rfl hv

/-- Settles O49: an answer or a fault leaves every flag alone, and an effect writes the flags of its command's port. -/
theorem everySharedFlagHasOneWriter : Obligations.EverySharedFlagHasOneWriter := by
  intro i s t h
  rcases exec_next h with ⟨st, d, rfl⟩ | ⟨c, rfl⟩ | ⟨u, st, d, hu, rfl⟩
  · simp
  · simp
  · exact ⟨hu.keeps_portA_flags, hu.keeps_portB_flags, hu.keeps_portX_flags, hu.fltValid_writers⟩

end Sys2Proof.Machine
end

section
/-! PROOFS. The decoder, the encoder and the opcode map agree (R91 to R97): the encoder's word of every command decodes
to the command, every accepted word is such a word, and the rows of R95 match these words and no others. -/

namespace Sys2Proof

variable {i : Instr} {w : Word}

/-! ## The operand of a command -/

/-- The operand of a format I command; 0 in format N (R94). -/
abbrev Instr.operand (i : Instr) : Nat := i.unitFnIdx.2.2

/-- The command of the same row with the operand `x`; a format N command has none (R94). -/
def Instr.withOperand (i : Instr) (x : Nat) : Instr :=
  match i with
  | .lbxWpix _ => .lbxWpix x
  | .arbWsamp _ => .arbWsamp x
  | .arbWave _ => .arbWave x
  | .arbMixw _ => .arbMixw x
  | .padCur _ => .padCur x
  | .padRaw _ => .padRaw x
  | .lbxRpix _ => .lbxRpix x
  | .arbRsamp _ => .arbRsamp x
  | .padReport _ => .padReport x
  | .padDetach _ => .padDetach x
  | i => i

@[simp] theorem Instr.withOperand_operand (i : Instr) : i.withOperand i.operand = i := by
  cases i <;> rfl

@[simp] theorem Instr.port_withOperand (i : Instr) (x : Nat) : (i.withOperand x).port = i.port := by
  cases i <;> rfl

/-- A command is well-formed when its operand fits IDX; the 0 of format N does (R94). -/
theorem Instr.wf_iff_operand : i.wf = true ↔ IdxFits i.operand := by
  cases i <;> simp [Instr.wf, Instr.operand, Instr.unitFnIdx]

/-! ## Decoding a command's word -/

/-- The fields the encoder gives a command's word (R91, R95). -/
def Instr.fields (i : Instr) : Fields where
  port := i.port.number
  unit := i.unitFnIdx.1
  fn := i.unitFnIdx.2.1
  idx := BitVec.ofNat 16 i.operand

theorem encode_eq_wordOf (i : Instr) : encode i = wordOf i.fields := rfl

theorem fieldsOf_encode (i : Instr) : fieldsOf (encode i) = i.fields := fieldsOf_wordOf i.fields

/-- Row by row, the decoder gives the command back with the low 16 bits of its operand (R91, log 24). -/
theorem decode_encode (i : Instr) : decode (encode i) = .ok (i.withOperand (i.operand % 65536)) := by
  rw [decode, fieldsOf_encode]
  cases i <;> rfl

/-- Settles O1: a well-formed command's operand is its own low 16 bits. -/
theorem decodeEncodeRoundTrip : Obligations.DecodeEncodeRoundTrip := by
  intro i hwf
  have hidx : i.operand % 65536 = i.operand := Nat.mod_eq_of_lt (Instr.wf_iff_operand.1 hwf)
  rw [decode_encode, hidx, Instr.withOperand_operand]

/-! ## Encoding what a word decodes to -/

/-- UNIT, FN and IDX of a command as the decoder reads them. -/
def Instr.numbers (i : Instr) : Nat × Nat × Nat := (i.unitFnIdx.1.toNat, i.unitFnIdx.2.1.toNat, i.operand)

/-- A format N row accepts IDX 0 only (R94). -/
theorem formatN_eq_ok {j : Instr} {idx : Nat} : formatN j idx = .ok i ↔ idx = 0 ∧ j = i := by
  unfold formatN
  split <;> simp [*]

/-- A (UNIT, FN) pair that no row lists is never accepted (R96). -/
theorem unmatched_ne_ok (unit : Nat) : unmatched unit ≠ .ok i := by
  unfold unmatched
  split <;> simp

/-- Each row of port A accepts the numbers of its own command only. -/
theorem decodeA_ok {unit fn idx : Nat} : decodeA unit fn idx = .ok i →
    i.port = .a ∧ i.numbers = (unit, fn, idx) := by
  revert i
  unfold decodeA
  split <;> simp +contextual [formatN_eq_ok, unmatched_ne_ok, Instr.port, Instr.numbers, Instr.operand, Instr.unitFnIdx]

/-- Each row of port B accepts the numbers of its own command only. -/
theorem decodeB_ok {unit fn idx : Nat} : decodeB unit fn idx = .ok i →
    i.port = .b ∧ i.numbers = (unit, fn, idx) := by
  revert i
  unfold decodeB
  split <;> simp +contextual [formatN_eq_ok, unmatched_ne_ok, Instr.port, Instr.numbers, Instr.operand, Instr.unitFnIdx]

/-- Each row of port X accepts the numbers of its own command only. -/
theorem decodeX_ok {unit fn idx : Nat} : decodeX unit fn idx = .ok i →
    i.port = .x ∧ i.numbers = (unit, fn, idx) := by
  revert i
  unfold decodeX
  split <;> simp +contextual [formatN_eq_ok, unmatched_ne_ok, Instr.port, Instr.numbers, Instr.operand, Instr.unitFnIdx]

/-- The decoder accepts the numbers of the command it answers, on that command's port. -/
theorem decodeFields_numbers {f : Fields} (h : decodeFields f = .ok i) :
    f.port = i.port.number ∧ i.numbers = (f.unit.toNat, f.fn.toNat, f.idx.toNat) := by
  unfold decodeFields at h
  split at h
  case h_1 hport =>
    obtain ⟨hp, hn⟩ := decodeA_ok h
    exact ⟨hp ▸ BitVec.eq_of_toNat_eq hport, hn⟩
  case h_2 hport =>
    obtain ⟨hp, hn⟩ := decodeB_ok h
    exact ⟨hp ▸ BitVec.eq_of_toNat_eq hport, hn⟩
  case h_3 hport =>
    obtain ⟨hp, hn⟩ := decodeX_ok h
    exact ⟨hp ▸ BitVec.eq_of_toNat_eq hport, hn⟩
  case h_4 => cases h

/-- Accepted fields are the fields of the command they stand for, and the command's operand is the IDX field. -/
theorem decodeFields_ok {f : Fields} (h : decodeFields f = .ok i) : i.operand = f.idx.toNat ∧ i.fields = f := by
  obtain ⟨hport, hnum⟩ := decodeFields_numbers h
  simp only [Instr.numbers, Prod.mk.injEq] at hnum
  obtain ⟨hunit, hfn, hidx⟩ := hnum
  obtain ⟨port, unit, fn, idx⟩ := f
  refine ⟨hidx, ?_⟩
  simp only [Instr.fields, Fields.mk.injEq]
  exact ⟨hport.symm, BitVec.eq_of_toNat_eq hunit, BitVec.eq_of_toNat_eq hfn,
    by rw [hidx, BitVec.ofNat_toNat, BitVec.setWidth_eq]⟩

/-- Settles O2: the accepted fields are the command's own, and a word is the composition of its fields. -/
theorem encodeDecodeRoundTrip : Obligations.EncodeDecodeRoundTrip := by
  intro w i h
  obtain ⟨hidx, hfields⟩ := decodeFields_ok h
  refine ⟨Instr.wf_iff_operand.2 (hidx ▸ (fieldsOf w).idx.isLt), ?_⟩
  rw [encode_eq_wordOf, hfields, wordOf_fieldsOf]

/-! ## The opcode map -/

/-- The mask of a command's row: every bit in format N, all but IDX in format I (R94). -/
def Instr.mask (i : Instr) : Word :=
  match i with
  | .lbxWpix _ | .arbWsamp _ | .arbWave _ | .arbMixw _ | .padCur _ | .padRaw _ | .lbxRpix _ | .arbRsamp _
  | .padReport _ | .padDetach _ => 0xFFFF0000
  | _ => 0xFFFFFFFF

/-- `r` is the row of the command `i`: its port, its mask, and its word with IDX 0. -/
abbrev OpcodeRow.IsRowOf (r : OpcodeRow) (i : Instr) : Prop :=
  r.port = i.port ∧ r.mask = i.mask ∧ r.pattern = encode (i.withOperand 0)

/-- PORT, UNIT and FN of a command's word, its upper half (R91). -/
def Instr.upper (i : Instr) : BitVec 16 := i.port.number ++ i.unitFnIdx.1 ++ i.unitFnIdx.2.1

theorem encode_eq_append (i : Instr) : encode i = i.upper ++ BitVec.ofNat 16 i.operand := rfl

@[simp] theorem Instr.upper_withOperand (i : Instr) (x : Nat) : (i.withOperand x).upper = i.upper := by
  cases i <;> rfl

/-- The two formats of R94: a row that fixes every bit and a command without an operand, or a row that leaves IDX free
and a command whose operand stands there. -/
theorem Instr.mask_cases (i : Instr) :
    (i.mask = 0xFFFFFFFF ∧ ∀ x, i.withOperand x = i) ∨
    (i.mask = 0xFFFF0000 ∧ ∀ x, (i.withOperand x).operand = x) := by
  cases i
  case lbxWpix | arbWsamp | arbWave | arbMixw | padCur | padRaw | lbxRpix | arbRsamp | padReport | padDetach =>
    exact .inr ⟨rfl, fun _ => rfl⟩
  all_goals exact .inl ⟨rfl, fun _ => rfl⟩

/-- A word is its upper half and its IDX field. -/
theorem upper_append_idx (w : Word) : w.extractLsb' 16 16 ++ (fieldsOf w).idx = w :=
  BitVec.extractLsb'_append_extractLsb' (w := 16) (len := 16)

/-- The mask of format I keeps the upper half and clears IDX. -/
theorem append_and_formatI (upper idx : BitVec 16) : (upper ++ idx) &&& (0xFFFF0000 : Word) = upper ++ 0#16 := by
  have h : (0xFFFF0000 : Word) = BitVec.allOnes 16 ++ 0#16 := by decide
  rw [h, BitVec.and_append, BitVec.and_allOnes, BitVec.and_zero]

/-- A word matches the row of a command exactly when it is the command's word with some operand. -/
theorem OpcodeRow.IsRowOf.matches_iff {r : OpcodeRow} (hr : r.IsRowOf i) (w : Word) :
    r.Matches w ↔ ∃ x, w = encode (i.withOperand x) := by
  obtain ⟨-, hmask, hpattern⟩ := hr
  rw [OpcodeRow.Matches, hmask, hpattern]
  obtain ⟨hm, hx⟩ | ⟨hm, hx⟩ := i.mask_cases
  · have hw : w &&& 0xFFFFFFFF = w := BitVec.and_allOnes
    simp only [hm, hw, hx, exists_const]
  · simp only [hm, encode_eq_append, hx, Instr.upper_withOperand]
    constructor
    · intro h
      rw [← upper_append_idx w, append_and_formatI] at h
      have hupper : w.extractLsb' 16 16 = i.upper := (BitVec.append_left_inj _).1 h
      refine ⟨(fieldsOf w).idx.toNat, ?_⟩
      rw [BitVec.ofNat_toNat, BitVec.setWidth_eq, ← hupper, upper_append_idx]
    · rintro ⟨x, rfl⟩
      exact append_and_formatI i.upper _

/-- Every row is the row of the command its pattern decodes to. -/
theorem exists_command_of_row : ∀ r ∈ opcodeTable, ∃ i, r.IsRowOf i := by
  have h : ∀ r ∈ opcodeTable, ∃ i ∈ (decode r.pattern).toOption, r.IsRowOf i := by decide
  intro r hr
  obtain ⟨i, -, hi⟩ := h r hr
  exact ⟨i, hi⟩

/-- Every command has a row. -/
theorem exists_row_of_command (i : Instr) : ∃ r ∈ opcodeTable, r.IsRowOf i := by
  cases i <;> simp only [OpcodeRow.IsRowOf, Instr.port, Instr.mask, Instr.withOperand] <;> decide

/-- A word that matches a row has the row's pattern in its upper half. -/
theorem upper_of_matches {r : OpcodeRow} (hr : r ∈ opcodeTable) (h : r.Matches w) : w &&& 0xFFFF0000 = r.pattern := by
  have hmask : ∀ r ∈ opcodeTable, r.mask &&& 0xFFFF0000 = 0xFFFF0000 ∧ r.pattern &&& 0xFFFF0000 = r.pattern := by
    decide
  obtain ⟨hm, hp⟩ := hmask r hr
  calc w &&& 0xFFFF0000 = w &&& r.mask &&& 0xFFFF0000 := by rw [BitVec.and_assoc, hm]
    _ = r.pattern := by rw [show w &&& r.mask = r.pattern from h, hp]

/-- No two rows have the same pattern. -/
theorem nodup_patterns : (opcodeTable.map OpcodeRow.pattern).Nodup := by decide

/-- Settles O3: the words that match a command's row are the command's words, and those are the words that decode to
it; two rows that a word matches both have its upper half as their pattern. -/
theorem decoderAcceptsExactlyTheTable : Obligations.DecoderAcceptsExactlyTheTable := by
  refine ⟨fun w p => ⟨?_, ?_⟩, ?_⟩
  · rintro ⟨i, hd, hp⟩
    obtain ⟨-, hw⟩ := encodeDecodeRoundTrip w i hd
    obtain ⟨r, hr, hri⟩ := exists_row_of_command i
    have hport : r.port = i.port := hri.1
    have hm : r.Matches w := (hri.matches_iff w).2 ⟨i.operand, by rw [Instr.withOperand_operand, hw]⟩
    exact ⟨r, hr, hm, hport.trans hp⟩
  · rintro ⟨r, hr, hm, hp⟩
    obtain ⟨i, hri⟩ := exists_command_of_row r hr
    obtain ⟨x, rfl⟩ := (hri.matches_iff w).1 hm
    have hport : r.port = i.port := hri.1
    exact ⟨_, decode_encode _, by rw [Instr.port_withOperand, Instr.port_withOperand, ← hport, hp]⟩
  · intro w r hr r' hr' hm hm'
    exact List.inj_on_of_nodup_map nodup_patterns hr hr'
      ((upper_of_matches hr hm).symm.trans (upper_of_matches hr' hm'))

/-- Settles O4: the decoder evaluated on each word. -/
theorem specWordsDecode : Obligations.SpecWordsDecode := by
  unfold Obligations.SpecWordsDecode
  decide

end Sys2Proof
end

section
/-! PROOFS. The four steps of dispatch (R93), and the emulation core's move on one command (R99). -/

namespace Sys2Proof.Machine

variable {i : Instr} {s u : State} {p : Port} {w d : Word} {rest : List Input}

/-! ## The four steps of dispatch -/

/-- The encoder's word of each port's `CTL.FAULT` is the one R255 writes. -/
theorem encode_ctlFaultOf (p : Port) : encode (ctlFaultOf p) = ctlWord p := by
  cases p <;> decide

/-- The port's own `CTL.FAULT` answers OK with the fault register and changes nothing (R255). -/
theorem exec_ctlFaultOf (p : Port) (s : State) :
    exec (ctlFaultOf p) s = .next (s.answered .ok (s.ctlFault.setWidth 32)) := by
  cases p <;> rfl

/-- Every other word goes to steps 2 to 4 of R93. -/
theorem serve_of_ne_ctlWord (hw : w ≠ ctlWord p) : serve p w d s = dispatchLive p w (s.present p d) := by
  rw [serve, encode_ctlFaultOf, if_neg hw]

/-- R93 step 2. -/
theorem dispatchLive_dead (hf : s.ctlFault ≠ 0) :
    dispatchLive p w s = .next (s.answered .fault (s.ctlFault.setWidth 32)) := by
  rw [dispatchLive, if_pos hf]
  rfl

/-- R93 step 3: the word decodes to no command of the port. -/
theorem dispatchLive_illegal (hf : s.ctlFault = 0) (hd : ∀ i, decode w = .ok i → i.port ≠ p) :
    dispatchLive p w s = .next (s.faulted 0x0C) := by
  have hraise : raise .illegalCmd s = .next (s.faulted 0x0C) := congrArg _ (s.takeFault_live .illegalCmd hf)
  rw [dispatchLive, if_neg (not_not.2 hf)]
  split
  · exact hraise
  · next i hi => rw [if_neg (hd i hi), hraise]

/-- A word that matches no row of a port decodes to no command of that port. -/
theorem decode_port_ne_of_no_row (hr : ∀ r ∈ opcodeTable, r.Matches w → r.port ≠ p) (hd : decode w = .ok i) :
    i.port ≠ p := by
  intro hp
  obtain ⟨r, hmem, hm, hrp⟩ := (decoderAcceptsExactlyTheTable.1 w p).1 ⟨i, hd, hp⟩
  exact hr r hmem hm hrp

/-- A step whose next input is a command serves it. -/
theorem step_command (hw : s.cfg.WellFormed) (hq : s.queue = .command p w d :: rest) :
    step s = serve p w d { s with queue := rest } :=
  step_input hw hq

/-- Settles O6: one rule of `serve` for each step of R93. -/
theorem dispatchTakesItsFourStepsInOrder : Obligations.DispatchTakesItsFourStepsInOrder := by
  intro s p w d rest hwf hq
  rw [step_command hwf hq]
  refine ⟨?_, ?_, ?_, ?_⟩
  · rintro rfl
    rw [← encode_ctlFaultOf, serve_ctlFault]
    exact exec_ctlFaultOf p (s.serving p d rest)
  · intro hw hf
    rw [serve_of_ne_ctlWord hw]
    exact dispatchLive_dead (s := s.serving p d rest) hf
  · intro hw hf hr
    rw [serve_of_ne_ctlWord hw]
    exact dispatchLive_illegal (s := s.serving p d rest) hf fun i => decode_port_ne_of_no_row hr
  · intro _ hf i hd hp
    exact serve_decoded hd hp hf

/-! ## A move of the emulation core -/

/-- When the emulation core's first task is to issue a well-formed command of port A, a live block serves it by its
meaning. -/
theorem runEmu_issue {work : List EmuTask} (he : s.emu = .job (.issue i d) :: work) (hwf : i.wf = true)
    (hp : i.port = .a) (hf : s.ctlFault = 0) :
    runEmu s = Result.andThen (exec i (s.present .a d)) (emuAnswered (.job (.issue i d)) work) := by
  have hserve : serve .a (encode i) d s = exec i (s.present .a d) :=
    serve_decoded (decodeEncodeRoundTrip i hwf) hp hf
  rw [runEmu, he, ← hserve]
  rfl

/-- After its one command an issued task is done; a FAULT ends the whole procedure (R99). -/
theorem emuAnswered_issue {a : Answer} (work : List EmuTask) (ha : s.answer = some a) :
    emuAnswered (.job (.issue i d)) work s = { s with emu := if a.status = .fault then [] else work } := by
  rw [emuAnswered, ha]
  rfl

/-- Settles O58: the move serves the command, and then notes its answer. -/
theorem clientMoveServesItsCommand : Obligations.ClientMoveServesItsCommand := by
  intro s u i d work rest a hw hf hq he hwf hp hx ha
  calc step s = runEmu { s with queue := rest } := step_input hw hq
    _ = Result.andThen (exec i (s.serving .a d rest)) (emuAnswered (.job (.issue i d)) work) :=
      runEmu_issue (s := { s with queue := rest }) he hwf hp hf
    _ = .next (emuAnswered (.job (.issue i d)) work u) := by rw [hx]; rfl
    _ = .next { u with emu := if a.status = .fault then [] else work } := by rw [emuAnswered_issue work ha]

end Sys2Proof.Machine
end

section
/-! PROOFS. Unit LBX (R110 to R116): each command's rule as one equation per outcome, in the order of its checks, and
the way of a pixel from the producer to the display core. -/

namespace Sys2Proof.Machine

variable {i : Instr} {s : State} {idx : Nat}

/-! ## Words and flags -/

/-- PORT, UNIT and FN of a command's row, then an operand that fits IDX, decode to the command (R91, R94). -/
theorem decode_append_operand {upper : BitVec 16} (hu : i.upper = upper) (hi : i.operand = idx) (hx : IdxFits idx) :
    decode (upper ++ BitVec.ofNat 16 idx) = .ok i := by
  subst hu hi
  rw [← encode_eq_append]
  exact decodeEncodeRoundTrip i (Instr.wf_iff_operand.2 hx)

theorem upper_lbxWpix (idx : Nat) : (Instr.lbxWpix idx).upper = 0x0001 :=
  (Instr.upper_withOperand (.lbxWpix 0) idx).trans (by decide)

theorem upper_lbxRpix (idx : Nat) : (Instr.lbxRpix idx).upper = 0x1001 :=
  (Instr.upper_withOperand (.lbxRpix 0) idx).trans (by decide)

/-- `wdata[0]` is the word cut to one bit (R112). -/
theorem bit0_eq_setWidth (w : Word) : bit0 w = w.setWidth 1 := by
  apply BitVec.eq_of_toNat_eq
  simp [bit0]

/-- The owner tag's bits as `LBX.STATUS` shows them (R113). -/
theorem lbxStatusWord_bits (l : Lbx) :
    (lbxStatusWord l).getLsbD 0 = l.fillSel.getLsbD 0 ∧ (lbxStatusWord l).getLsbD 1 = l.acq ∧
    (lbxStatusWord l).getLsbD 2 = l.fltValid ∧ (lbxStatusWord l).getLsbD 3 = l.fltSel.getLsbD 0 := by
  simp only [lbxStatusWord, BitVec.getLsbD_append]
  simp

/-- Bits 31:4 of the status word are 0 (R113). -/
theorem lbxStatusWord_upper (l : Lbx) {j : Nat} (hj : 4 ≤ j) : (lbxStatusWord l).getLsbD j = false := by
  have h0 : ¬ j < 1 := by omega
  have h1 : ¬ j - 1 < 1 := by omega
  have h2 : ¬ j - 1 - 1 < 1 := by omega
  have h3 : ¬ j - 1 - 1 - 1 < 1 := by omega
  simp only [lbxStatusWord, BitVec.getLsbD_append, h0, h1, h2, h3, if_false]
  exact BitVec.getLsbD_zero

/-- A write to one pixel replaces the pixel stores and nothing else of unit LBX (R111). -/
theorem Lbx.writePixel_eq (l : Lbx) (b : BitVec 1) (j : Nat) (v : Word) :
    l.writePixel b j v = { l with pix0 := (l.writePixel b j v).pix0, pix1 := (l.writePixel b j v).pix1 } := by
  unfold Lbx.writePixel
  split <;> rfl

/-! ## The producer's commands -/

theorem exec_lbxWpix_not_acquired (ha : s.lbx.acq = false) : exec (.lbxWpix idx) s = raise .lbxWriteNotOwned s :=
  if_pos ha

theorem exec_lbxWpix_out_of_range (ha : s.lbx.acq = true) (hx : s.cfg.visW ≤ idx) :
    exec (.lbxWpix idx) s = raise .range s :=
  (if_neg (ne_false_of_eq_true ha)).trans (if_pos hx)

theorem exec_lbxWpix_writes (ha : s.lbx.acq = true) (hx : idx < s.cfg.visW) :
    exec (.lbxWpix idx) s =
      done 0 (s.setLbx (s.lbx.writePixel s.lbx.fillSel (s.cfg.marginL + idx) (pixelOf s.cfg s.wdata))) :=
  (if_neg (ne_false_of_eq_true ha)).trans (if_neg (not_le.2 hx))

theorem exec_lbxPublish_not_acquired (ha : s.lbx.acq = false) :
    exec .lbxPublish s = raise .lbxPublishNotAcquired s :=
  if_pos ha

theorem exec_lbxPublish_wrong_buffer (ha : s.lbx.acq = true) (hb : bit0 s.wdata ≠ s.lbx.fillSel) :
    exec .lbxPublish s = raise .lbxPublishWrongBuffer s :=
  (if_neg (ne_false_of_eq_true ha)).trans (if_pos hb)

/-- With both contract checks passed, `LBX.PUBLISH` waits or hands the buffer over (R112). -/
theorem exec_lbxPublish_own_buffer (ha : s.lbx.acq = true) (hb : bit0 s.wdata = s.lbx.fillSel) :
    exec .lbxPublish s =
      if s.lbx.fltValid = true then retry s
      else done 0 (s.setLbx { s.lbx with
        fltValid := true, fltSel := s.lbx.fillSel, fillSel := 1 - s.lbx.fillSel, acq := false }) :=
  (if_neg (ne_false_of_eq_true ha)).trans (if_neg (not_not.2 hb))

/-- Settles O11: the rule has no check. -/
theorem acquireReturnsTheFillTarget : Obligations.AcquireReturnsTheFillTarget := by
  refine ⟨by decide, ?_⟩
  intro s
  rfl

/-- Settles O12: the two faults by their checks; the pixel and the frame by the rule of a pixel write. -/
theorem wpixWritesOnePixelOfTheFillTarget : Obligations.WpixWritesOnePixelOfTheFillTarget := by
  refine ⟨fun idx hidx => decode_append_operand (upper_lbxWpix idx) rfl hidx, fun s idx => ⟨?_, ?_, ?_⟩⟩
  · intro hf ha
    exact (exec_lbxWpix_not_acquired ha).trans (raise_live _ hf)
  · intro hf ha hx
    exact (exec_lbxWpix_out_of_range ha hx).trans (raise_live _ hf)
  · intro ha hx
    refine ⟨_, exec_lbxWpix_writes ha hx, ?_, fun b j hne => ?_, ?_⟩
    · exact (State.pixel_writePixel ..).trans (if_pos ⟨rfl, rfl⟩)
    · exact (State.pixel_writePixel ..).trans (if_neg hne)
    · exact congrArg (fun l => (s.setLbx l).answered .ok 0) (Lbx.writePixel_eq ..)

/-- Settles O13: the checks of R112 in their order, then the wait. -/
theorem publishHandsTheBufferOver : Obligations.PublishHandsTheBufferOver := by
  refine ⟨by decide, fun s => ⟨?_, ?_, ?_, ?_⟩⟩
  · intro hf ha
    exact (exec_lbxPublish_not_acquired ha).trans (raise_live _ hf)
  · intro hf ha hb
    rw [← bit0_eq_setWidth] at hb
    exact (exec_lbxPublish_wrong_buffer ha hb).trans (raise_live _ hf)
  · intro ha hb hv
    rw [← bit0_eq_setWidth] at hb
    exact (exec_lbxPublish_own_buffer ha hb).trans (if_pos hv)
  · intro ha hb hv
    rw [← bit0_eq_setWidth] at hb
    exact (exec_lbxPublish_own_buffer ha hb).trans (if_neg (ne_true_of_eq_false hv))

/-! ## The status on both ports -/

/-- Settles O14: both ports answer with the status word, read bit by bit. -/
theorem lbxStatusShowsTheOwnerTag : Obligations.LbxStatusShowsTheOwnerTag := by
  refine ⟨by decide, by decide, fun s => ⟨lbxStatusWord s.lbx, rfl, rfl, ?_⟩⟩
  obtain ⟨hfill, hacq, hvalid, hsel⟩ := lbxStatusWord_bits s.lbx
  exact ⟨hfill, hacq, hvalid, hsel, fun j => lbxStatusWord_upper s.lbx⟩

/-! ## The display core's commands -/

theorem exec_lbxPoll_nothing_inFlight (hd : s.fsg.dstate = .streaming) (hv : s.lbx.fltValid = false) :
    exec .lbxPoll s = retry s :=
  (if_neg (not_not.2 hd)).trans (if_pos hv)

theorem exec_lbxPoll_inFlight (hd : s.fsg.dstate = .streaming) (hv : s.lbx.fltValid = true) :
    exec .lbxPoll s = done (zext s.lbx.fltSel) s :=
  (if_neg (not_not.2 hd)).trans (if_neg (ne_false_of_eq_true hv))

/-- Reading and giving back need a buffer in flight (R115, R116). -/
theorem exec_lineBuffer_nothing_inFlight (hi : (∃ idx, i = .lbxRpix idx) ∨ i = .lbxReturn)
    (hd : s.fsg.dstate = .streaming) (hv : s.lbx.fltValid = false) : exec i s = raise .lbxNoInflight s := by
  rcases hi with ⟨idx, rfl⟩ | rfl <;> exact (if_neg (not_not.2 hd)).trans (if_pos hv)

/-- With a buffer in flight, `LBX.RPIX` checks the absolute index and reads (R115). -/
theorem exec_lbxRpix_inFlight (hd : s.fsg.dstate = .streaming) (hv : s.lbx.fltValid = true) :
    exec (.lbxRpix idx) s =
      if idx ≥ s.cfg.lineW then raise .range s else done (s.pixel s.lbx.fltSel idx) s :=
  (if_neg (not_not.2 hd)).trans (if_neg (ne_false_of_eq_true hv))

theorem exec_lbxReturn_inFlight (hd : s.fsg.dstate = .streaming) (hv : s.lbx.fltValid = true) :
    exec .lbxReturn s = done 0 (s.setLbx { s.lbx with fltValid := false }) :=
  (if_neg (not_not.2 hd)).trans (if_neg (ne_false_of_eq_true hv))

/-- Settles O15: the display state first, then whether a buffer is in flight. -/
theorem pollFindsTheInFlightBuffer : Obligations.PollFindsTheInFlightBuffer := by
  refine ⟨by decide, fun s => ⟨?_, ?_, ?_⟩⟩
  · intro hf hd
    exact (exec_lineBuffer_not_streaming (.inl rfl) hd).trans (raise_live _ hf)
  · exact exec_lbxPoll_nothing_inFlight
  · exact exec_lbxPoll_inFlight

/-- Settles O16: the three checks of R115 in their order, then the read. -/
theorem rpixReadsThePixelInFlight : Obligations.RpixReadsThePixelInFlight := by
  refine ⟨fun idx hidx => decode_append_operand (upper_lbxRpix idx) rfl hidx, fun s idx => ⟨?_, ?_, ?_, ?_⟩⟩
  · intro hf hd
    exact (exec_lineBuffer_not_streaming (.inr (.inl ⟨idx, rfl⟩)) hd).trans (raise_live _ hf)
  · intro hf hd hv
    exact (exec_lineBuffer_nothing_inFlight (.inl ⟨idx, rfl⟩) hd hv).trans (raise_live _ hf)
  · intro hf hd hv hx
    exact (exec_lbxRpix_inFlight hd hv).trans ((if_pos hx).trans (raise_live _ hf))
  · intro hd hv hx
    exact (exec_lbxRpix_inFlight hd hv).trans (if_neg (not_le.2 hx))

/-- Settles O17: the two checks of R116, then the one flag. -/
theorem returnGivesTheBufferBack : Obligations.ReturnGivesTheBufferBack := by
  refine ⟨by decide, fun s => ⟨?_, ?_, ?_⟩⟩
  · intro hf hd
    exact (exec_lineBuffer_not_streaming (.inr (.inr rfl)) hd).trans (raise_live _ hf)
  · intro hf hd hv
    exact (exec_lineBuffer_nothing_inFlight (.inr rfl) hd hv).trans (raise_live _ hf)
  · exact exec_lbxReturn_inFlight

/-! ## From the producer to the display core -/

/-- A pixel of a visible index lies inside the line buffer (R7). -/
theorem marginL_add_lt_lineW {c : Config} (hw : c.WellFormed) {x : Nat} (hx : x < c.visW) :
    c.marginL + x < c.lineW := by
  obtain ⟨⟨-, -, hfit, -⟩, -⟩ := hw
  omega

/-- Settles O18: the write keeps the owner tag, the hand-over keeps the pixels and puts the written buffer in flight,
and the read is at the index of the write. -/
theorem publishedPixelIsRead : Obligations.PublishedPixelIsRead := by
  intro s x hw ha hv hd hx
  obtain ⟨-, hwpix⟩ := wpixWritesOnePixelOfTheFillTarget
  obtain ⟨-, -, hwrite⟩ := hwpix s x
  obtain ⟨t, ht, hpixel, -, hframe⟩ := hwrite ha hx
  have hcfg : t.cfg = s.cfg := congrArg (·.cfg) hframe
  have hdisplay : t.fsg.dstate = .streaming := (congrArg (·.fsg.dstate) hframe).trans hd
  have hfill : t.lbx.fillSel = s.lbx.fillSel := congrArg (·.lbx.fillSel) hframe
  have hacq : t.lbx.acq = true := (congrArg (·.lbx.acq) hframe).trans ha
  have hvalid : t.lbx.fltValid = false := (congrArg (·.lbx.fltValid) hframe).trans hv
  obtain ⟨-, hpublish⟩ := publishHandsTheBufferOver
  obtain ⟨-, -, -, hhandOver⟩ := hpublish { t with wdata := s.lbx.fillSel.setWidth 32 }
  have hown : (s.lbx.fillSel.setWidth 32).setWidth 1 = t.lbx.fillSel := by simp [hfill]
  have hu := hhandOver hacq hown hvalid
  obtain ⟨-, hrpix⟩ := rpixReadsThePixelInFlight
  obtain ⟨-, -, -, hread⟩ := hrpix _ (s.cfg.marginL + x)
  refine ⟨t, _, _, ht, hu, hread hdisplay rfl ?_, ?_⟩
  · exact (marginL_add_lt_lineW hw hx).trans_eq (congrArg Config.lineW hcfg).symm
  · rw [← hpixel, ← hfill]
    rfl

end Sys2Proof.Machine
end

section
/-! PROOFS. Unit ARB (R130 to R140, R141 (c) and (d)): each command's rule as one equation per outcome, the mixer, and
the way of a pair through the ring. -/

namespace Sys2Proof.Machine

variable {i : Instr} {s : State} {idx : Nat}

/-! ## Words, pairs and mixer inputs -/

/-- A row's upper half, then an operand that fits IDX, decodes to the row's command with that operand (R91, R94). -/
theorem decode_row_operand {upper : BitVec 16} (row : Instr) (hu : row.upper = upper)
    (ho : (row.withOperand idx).operand = idx) (hx : IdxFits idx) :
    decode (upper ++ BitVec.ofNat 16 idx) = .ok (row.withOperand idx) :=
  decode_append_operand ((row.upper_withOperand idx).trans hu) ho hx

theorem dataOf_toNat {n : Nat} (h : n < 2 ^ 32) : (dataOf n).toNat = n := Nat.mod_eq_of_lt h

theorem pairOf_left_toNat (v : Word) : (pairOf v).left.toNat = v.toNat % 65536 := by
  simp [pairOf]

theorem pairOf_right_toNat (v : Word) : (pairOf v).right.toNat = v.toNat / 65536 := by
  have hv := v.isLt
  simp only [pairOf, BitVec.extractLsb'_toNat, Nat.shiftRight_eq_div_pow]
  omega

theorem packPair_toNat (p : SamplePair) : (packPair p).toNat = p.right.toNat * 65536 + p.left.toNat := by
  rw [packPair, BitVec.toNat_append, ← Nat.shiftLeft_add_eq_or_of_lt p.left.isLt, Nat.shiftLeft_eq]

/-- A pair leaves the data path as it came (R132, R138). -/
theorem packPair_pairOf (v : Word) : packPair (pairOf v) = v := by
  apply BitVec.eq_of_toNat_eq
  rw [packPair_toNat, pairOf_left_toNat, pairOf_right_toNat, Nat.div_add_mod']

/-- A held input is exactly the low WAVE_W bits where the register is wide enough (R7, R134). -/
theorem waveOf_toNat {c : Config} (h : c.waveW ≤ 16) (v : Word) : (waveOf c v).toNat = v.toNat % 2 ^ c.waveW := by
  have hpow : 2 ^ c.waveW ≤ 2 ^ 16 := Nat.pow_le_pow_right (by decide) h
  have hlow : v.toNat % 2 ^ c.waveW < 2 ^ c.waveW := Nat.mod_lt _ (by positivity)
  exact Nat.mod_eq_of_lt (hlow.trans_le hpow)

theorem Waves.get_set_same (w : Waves) {k : Nat} (h1 : 1 ≤ k) (h5 : k ≤ 5) (v : BitVec 16) :
    (w.set k v).get k = v := by
  interval_cases k <;> rfl

/-- Loading one holding register leaves the other four as they are (R134). -/
theorem Waves.get_set_other (w : Waves) {j k : Nat} (h : j ≠ k) (v : BitVec 16) : (w.set k v).get j = w.get j := by
  unfold Waves.set
  split <;> unfold Waves.get <;> split <;> trivial

/-! ## The outcomes of each command -/

/-- Outside the write window, both stores fault (R132, R135). -/
theorem exec_store_outside_window (hi : i = .arbWsamp idx ∨ i = .arbMixw idx) (hx : writable s.cfg s.arb ≤ idx) :
    exec i s = raise .arbWindow s := by
  rcases hi with rfl | rfl <;> exact if_pos hx

theorem exec_arbWsamp_stores (hx : idx < writable s.cfg s.arb) :
    exec (.arbWsamp idx) s =
      done 0 (s.setArb (s.arb.writeSample (ringPos s.cfg s.arb.wr idx) (pairOf s.wdata))) :=
  if_neg (not_le.2 hx)

theorem exec_arbMixw_stores (hx : idx < writable s.cfg s.arb) :
    exec (.arbMixw idx) s =
      done 0 (s.setArb (s.arb.writeSample (ringPos s.cfg s.arb.wr idx) (mix s.arb.wave))) :=
  if_neg (not_le.2 hx)

/-- A store answers OK, writes the pair at one position, and touches no other position or part of the state
(R132, R135). -/
theorem done_writeSample (s : State) (j : Nat) (p : SamplePair) :
    ∃ t, done 0 (s.setArb (s.arb.writeSample j p)) = .next t ∧ t.sample j = p ∧
      (∀ k, k ≠ j → t.sample k = s.sample k) ∧
      t = ({ s with arb := { s.arb with samp := t.arb.samp } } : State).answered .ok 0 :=
  ⟨_, rfl, (State.sample_writeSample ..).trans (if_pos rfl),
    fun _ hk => (State.sample_writeSample ..).trans (if_neg hk), rfl⟩

theorem exec_arbAdvw_overrun (hn : writable s.cfg s.arb < s.wdata.toNat) :
    exec .arbAdvw s = raise .arbWriteOverrun s :=
  if_pos hn

theorem exec_arbAdvw_moves (hn : s.wdata.toNat ≤ writable s.cfg s.arb) :
    exec .arbAdvw s = done 0 (s.setArb { s.arb with wr := advance s.cfg s.arb.wr s.wdata.toNat }) :=
  if_neg (not_lt.2 hn)

theorem exec_arbWave_no_channel (hx : idx < 1 ∨ 5 < idx) : exec (.arbWave idx) s = raise .range s := if_pos hx

theorem exec_arbWave_loads (h1 : 1 ≤ idx) (h5 : idx ≤ 5) :
    exec (.arbWave idx) s =
      done 0 (s.setArb { s.arb with wave := s.arb.wave.set idx (waveOf s.cfg s.wdata) }) :=
  if_neg (by omega)

theorem exec_arbRsamp_outside_window (hx : readable s.cfg s.arb ≤ idx) :
    exec (.arbRsamp idx) s = raise .arbWindow s :=
  if_pos hx

theorem exec_arbRsamp_reads (hx : idx < readable s.cfg s.arb) :
    exec (.arbRsamp idx) s = done (packPair (s.sample (ringPos s.cfg s.arb.rd idx))) s :=
  if_neg (not_le.2 hx)

theorem exec_arbAdvr_overrun (hn : readable s.cfg s.arb < s.wdata.toNat) :
    exec .arbAdvr s = raise .arbReadOverrun s :=
  if_pos hn

theorem exec_arbAdvr_moves (hn : s.wdata.toNat ≤ readable s.cfg s.arb) :
    exec .arbAdvr s = done 0 (s.setArb { s.arb with rd := advance s.cfg s.arb.rd s.wdata.toNat }) :=
  if_neg (not_lt.2 hn)

/-! ## Sizes and pointers -/

/-- The number of unread pairs is the residue of R30 itself, never a truncated one. -/
theorem unread_cast {c : Config} (hN : 1 ≤ c.ringN) (a : Arb) :
    (unread c a : Int) = ((a.wr : Int) - a.rd) % (2 * c.ringN) := by
  unfold unread
  rw [Int.toNat_of_nonneg (Int.emod_nonneg _ (by omega))]
  push_cast
  rfl

/-- Settles O20: under the ring invariant `writable` is a difference of integers, and both sizes fit the data word. -/
theorem ringSizesCountUnreadPairs : Obligations.RingSizesCountUnreadPairs := by
  refine ⟨by decide, by decide, fun s hc hr => ⟨_, _, rfl, rfl, ?_⟩⟩
  obtain ⟨hN, hmax, -⟩ := hc
  obtain ⟨-, -, hu⟩ := hr
  rw [← unread_cast hN, dataOf_toNat, dataOf_toNat]
  · exact ⟨Int.ofNat_sub hu, rfl⟩
  · unfold readable
    omega
  · unfold writable
    omega

/-- Settles O21: a ring position is below RING_N and so fits the data word. -/
theorem ringPointersAreRingPositions : Obligations.RingPointersAreRingPositions := by
  refine ⟨by decide, by decide, fun s hc => ⟨_, _, rfl, rfl, ?_⟩⟩
  obtain ⟨hN, hmax, -⟩ := hc
  have hfits (cursor : Nat) : (dataOf (ringPos s.cfg cursor 0)).toNat = cursor % s.cfg.ringN :=
    dataOf_toNat (by have := ringPos_lt hN cursor 0; omega)
  exact ⟨hfits _, hfits _⟩

/-! ## The write side -/

/-- Settles O22: the window fault by its check; the pair and the frame by the rule of a store. -/
theorem wsampStoresOnePairInTheWindow : Obligations.WsampStoresOnePairInTheWindow := by
  refine ⟨fun idx => decode_row_operand (.arbWsamp 0) (by decide) rfl, fun s idx => ⟨?_, ?_⟩⟩
  · intro hf hx
    exact (exec_store_outside_window (.inl rfl) hx).trans (raise_live _ hf)
  · intro hx
    obtain ⟨t, ht, hpair, hothers, hframe⟩ :=
      done_writeSample s (ringPos s.cfg s.arb.wr idx) (pairOf s.wdata)
    refine ⟨t, (exec_arbWsamp_stores hx).trans ht, ?_, ?_, hothers, hframe⟩
    · exact (congrArg (·.left.toNat) hpair).trans (pairOf_left_toNat _)
    · exact (congrArg (·.right.toNat) hpair).trans (pairOf_right_toNat _)

/-- Settles O23: the one check of R133, then the cursor. -/
theorem advwMovesTheWriteCursor : Obligations.AdvwMovesTheWriteCursor := by
  refine ⟨by decide, fun s => ⟨?_, ?_⟩⟩
  · intro hf hn
    exact (exec_arbAdvw_overrun hn).trans (raise_live _ hf)
  · exact exec_arbAdvw_moves

/-- Settles O24: the range fault by its check; the five registers by the rules of a register write. -/
theorem waveLoadsOneMixerInput : Obligations.WaveLoadsOneMixerInput := by
  refine ⟨fun idx => decode_row_operand (.arbWave 0) (by decide) rfl, fun s idx => ⟨?_, ?_⟩⟩
  · intro hf hx
    exact (exec_arbWave_no_channel hx).trans (raise_live _ hf)
  · intro hw h1 h5
    refine ⟨_, exec_arbWave_loads h1 h5, ?_, fun k hk => Waves.get_set_other _ hk _, rfl⟩
    exact (congrArg BitVec.toNat (Waves.get_set_same _ h1 h5 _)).trans (waveOf_toNat hw _)

/-- Settles O25: as `ARB.WSAMP`, with the mix for the pair. -/
theorem mixwStoresTheMixInTheWindow : Obligations.MixwStoresTheMixInTheWindow := by
  refine ⟨fun idx => decode_row_operand (.arbMixw 0) (by decide) rfl, fun s idx => ⟨?_, ?_⟩⟩
  · intro hf hx
    exact (exec_store_outside_window (.inr rfl) hx).trans (raise_live _ hf)
  · intro hx
    rw [exec_arbMixw_stores hx]
    exact done_writeSample ..

/-- A channel of the mix keeps its sum modulo 65536, in the signed 16-bit range (R9). -/
theorem ofInt_wrap16_spec (z : Int) :
    -32768 ≤ (BitVec.ofInt 16 (wrap16 z)).toInt ∧ (BitVec.ofInt 16 (wrap16 z)).toInt ≤ 32767 ∧
      ((BitVec.ofInt 16 (wrap16 z)).toInt - z) % 65536 = 0 := by
  have hchannel : (BitVec.ofInt 16 (wrap16 z)).toInt = Int.bmod z 65536 := by
    rw [BitVec.toInt_ofInt]
    exact Int.bmod_bmod
  have hlow : -(65536 : Int) / 2 ≤ Int.bmod z 65536 := Int.le_bmod (by decide)
  have hhigh : Int.bmod z 65536 < (65536 + 1) / 2 := Int.bmod_lt (by decide)
  have hresidue : Int.bmod z 65536 % 65536 = z % 65536 := Int.bmod_emod
  rw [hchannel]
  omega

/-- Settles O26: the two channels truncate the two sums of R140. -/
theorem mixTruncatesTheExactSums : Obligations.MixTruncatesTheExactSums := by
  intro w
  exact ⟨ofInt_wrap16_spec _, ofInt_wrap16_spec _⟩

/-! ## The read side -/

/-- Settles O27: the one check of R138, then the read. -/
theorem rsampReadsOnePairOfTheWindow : Obligations.RsampReadsOnePairOfTheWindow := by
  refine ⟨fun idx => decode_row_operand (.arbRsamp 0) (by decide) rfl, fun s idx => ⟨?_, ?_⟩⟩
  · intro hf hx
    exact (exec_arbRsamp_outside_window hx).trans (raise_live _ hf)
  · intro hx
    exact ⟨_, exec_arbRsamp_reads hx, packPair_toNat _⟩

/-- Settles O28: the one check of R139, then the cursor. -/
theorem advrMovesTheReadCursor : Obligations.AdvrMovesTheReadCursor := by
  refine ⟨by decide, fun s => ⟨?_, ?_⟩⟩
  · intro hf hn
    exact (exec_arbAdvr_overrun hn).trans (raise_live _ hf)
  · exact exec_arbAdvr_moves

/-! ## Through the ring -/

/-- Settles O29: the advance puts the stored position in the read window, `unread` places behind the read cursor. -/
theorem storedPairIsReadInOrder : Obligations.StoredPairIsReadInOrder := by
  intro s i n hc hr hin hn
  obtain ⟨hw, hrd, hu⟩ := hr
  have hunread : unread s.cfg { s.arb with wr := advance s.cfg s.arb.wr n.toNat } = unread s.cfg s.arb + n.toNat :=
    unread_advanceWrite hw hrd hu hn
  have hpos : ringPos s.cfg s.arb.rd (readable s.cfg s.arb + i) = ringPos s.cfg s.arb.wr i :=
    (ringPos_wr hw hrd i).symm
  have hstored : (s.setArb (s.arb.writeSample (ringPos s.cfg s.arb.wr i) (pairOf s.wdata))).sample
      (ringPos s.cfg s.arb.rd (readable s.cfg s.arb + i)) = pairOf s.wdata :=
    (State.sample_writeSample ..).trans (if_pos hpos)
  refine ⟨_, _, _, exec_arbWsamp_stores (hin.trans_le hn), exec_arbAdvw_moves hn, exec_arbRsamp_reads ?_, ?_⟩
  · exact (Nat.add_lt_add_left hin _).trans_eq hunread.symm
  · refine congrArg (State.answered _ .ok) ?_
    exact (congrArg packPair hstored).trans (packPair_pairOf _)

/-- The ring is empty exactly when both cursors are at one place (R30). -/
theorem unread_eq_zero_iff {c : Config} {a : Arb} (hw : a.wr < 2 * c.ringN) (hr : a.rd < 2 * c.ringN) :
    unread c a = 0 ↔ a.wr = a.rd := by
  rw [unread_eq hw hr]
  split <;> omega

/-- Settles O30: the writer's advance fills the ring; the reader's, by the same count, puts both cursors at one place
again. -/
theorem fullRingRoundTripRestoresCapacity : Obligations.FullRingRoundTripRestoresCapacity := by
  intro s n hc hr hempty hn
  obtain ⟨hN, -⟩ := hc
  obtain ⟨hw, hrd, hu⟩ := hr
  have hroom : n.toNat ≤ writable s.cfg s.arb := by
    unfold writable
    omega
  have hfull : unread s.cfg { s.arb with wr := advance s.cfg s.arb.wr n.toNat } = s.cfg.ringN := by
    rw [unread_advanceWrite hw hrd hu hroom, hempty, hn, Nat.zero_add]
  have hcursors : advance s.cfg s.arb.wr n.toNat = advance s.cfg s.arb.rd n.toNat :=
    congrArg (advance s.cfg · n.toNat) ((unread_eq_zero_iff hw hrd).1 hempty)
  have hdrained : unread s.cfg { s.arb with
      wr := advance s.cfg s.arb.wr n.toNat, rd := advance s.cfg s.arb.rd n.toNat } = 0 :=
    (unread_eq_zero_iff (advance_lt hN _ _) (advance_lt hN _ _)).2 hcursors
  refine ⟨_, _, exec_arbAdvw_moves hroom, exec_arbAdvr_moves (hn.trans hfull.symm).le, ?_, hcursors, ?_⟩
  · exact Nat.sub_eq_zero_of_le hfull.ge
  · exact congrArg (s.cfg.ringN - ·) hdrained

end Sys2Proof.Machine
end

section
/-! PROOFS. Unit XFO (R155 to R163): each command's rule as one equation per outcome, in the order of its checks. -/

namespace Sys2Proof.Machine

variable {i : Instr} {s : State}

/-! ## The emulation core's commands -/

theorem exec_xfoRequest_not_idle (h : s.xfo.req = true ∨ s.xfo.ack = true) :
    exec .xfoRequest s = raise .xfoProtocolA s :=
  if_pos h

theorem exec_xfoRequest_idle (hr : s.xfo.req = false) (ha : s.xfo.ack = false) :
    exec .xfoRequest s = done 0 (s.setXfo { s.xfo with req := true }) :=
  if_neg (by simp [hr, ha])

/-- The flash operation and the release need the grant (R157, R158). -/
theorem exec_grantCommand_outside_grant (hi : i = .xfoExec ∨ i = .xfoRelease)
    (h : s.xfo.req = false ∨ s.xfo.ack = false) : exec i s = raise .xfoProtocolA s := by
  rcases hi with rfl | rfl <;> exact if_pos h

theorem exec_xfoRelease_grant (hr : s.xfo.req = true) (ha : s.xfo.ack = true) :
    exec .xfoRelease s = done 0 (s.setXfo { s.xfo with req := false }) :=
  if_neg (by simp [hr, ha])

/-- In the grant, `XFO.EXEC` checks the slot number and flashes (R157, R226). -/
theorem exec_xfoExec_grant (hr : s.xfo.req = true) (ha : s.xfo.ack = true) :
    exec .xfoExec s =
      if s.wdata.toNat ≥ s.cfg.numSlots then .refused .flashSlotUndefined
      else done 0 (s.setEnv (flashSlot s.cfg s.wdata.toNat s.env)) :=
  if_neg (by simp [hr, ha])

theorem exec_xfoExec_flashes (hr : s.xfo.req = true) (ha : s.xfo.ack = true)
    (hk : s.wdata.toNat < s.cfg.numSlots) :
    exec .xfoExec s = done 0 (s.setEnv (flashSlot s.cfg s.wdata.toNat s.env)) :=
  (exec_xfoExec_grant hr ha).trans (if_neg (not_le.2 hk))

theorem exec_xfoWaitack_no_request (hr : s.xfo.req = false) : exec .xfoWaitack s = raise .xfoProtocolA s :=
  if_pos hr

theorem exec_xfoWaitack_requested (hr : s.xfo.req = true) (ha : s.xfo.ack = false) :
    exec .xfoWaitack s = retry s :=
  (if_neg (ne_false_of_eq_true hr)).trans (if_pos ha)

theorem exec_xfoWaitack_grant (hr : s.xfo.req = true) (ha : s.xfo.ack = true) :
    exec .xfoWaitack s = done 1 s :=
  (if_neg (ne_false_of_eq_true hr)).trans (if_neg (ne_false_of_eq_true ha))

theorem exec_xfoWaitresume_request (hr : s.xfo.req = true) : exec .xfoWaitresume s = raise .xfoProtocolA s :=
  if_pos hr

theorem exec_xfoWaitresume_releasing (hr : s.xfo.req = false) (ha : s.xfo.ack = true) :
    exec .xfoWaitresume s = retry s :=
  (if_neg (ne_true_of_eq_false hr)).trans (if_pos ha)

theorem exec_xfoWaitresume_idle (hr : s.xfo.req = false) (ha : s.xfo.ack = false) :
    exec .xfoWaitresume s = done 0 s :=
  (if_neg (ne_true_of_eq_false hr)).trans (if_neg (ne_true_of_eq_false ha))

/-- Settles O32: the one check of R155 and of R158, then the flag. -/
theorem requestAndReleaseMoveTheRequestFlag : Obligations.RequestAndReleaseMoveTheRequestFlag := by
  refine ⟨by decide, by decide, fun s => ⟨?_, ?_, ?_, ?_⟩⟩
  · intro hf hbusy
    exact (exec_xfoRequest_not_idle hbusy).trans (raise_live _ hf)
  · exact exec_xfoRequest_idle
  · intro hf hgrant
    exact (exec_grantCommand_outside_grant (.inr rfl) hgrant).trans (raise_live _ hf)
  · exact exec_xfoRelease_grant

/-- Settles O33: the request flag decides about the fault, the acknowledge flag about the wait. -/
theorem waitsPollTheAcknowledgeFlag : Obligations.WaitsPollTheAcknowledgeFlag := by
  refine ⟨by decide, by decide, fun s => ⟨?_, ?_, ?_, ?_, ?_, ?_⟩⟩
  · intro hf hr
    exact (exec_xfoWaitack_no_request hr).trans (raise_live _ hf)
  · exact exec_xfoWaitack_requested
  · exact exec_xfoWaitack_grant
  · intro hf hr
    exact (exec_xfoWaitresume_request hr).trans (raise_live _ hf)
  · exact exec_xfoWaitresume_releasing
  · exact exec_xfoWaitresume_idle

/-- Settles O34: the two checks in their order; the bytes and the frame by the rule of the flash operation. -/
theorem execCopiesTheSaveRegionToTheSlot : Obligations.ExecCopiesTheSaveRegionToTheSlot := by
  refine ⟨by decide, fun s => ⟨?_, ?_, ?_⟩⟩
  · intro hf hgrant
    exact (exec_grantCommand_outside_grant (.inl rfl) hgrant).trans (raise_live _ hf)
  · intro hr ha hk
    exact (exec_xfoExec_grant hr ha).trans (if_pos hk)
  · intro hr ha hk
    obtain ⟨hslot, hothers, hframe⟩ := flashSlot_spec s.cfg s.wdata.toNat s.env
    exact ⟨_, exec_xfoExec_flashes hr ha hk, hslot, hothers, congrArg (fun e => (s.setEnv e).answered .ok 0) hframe⟩

/-! ## The latch as a data word -/

theorem xfoStatusWord_toNat (x : Xfo) : (xfoStatusWord x).toNat = 2 * x.ack.toNat + x.req.toNat := by
  obtain ⟨req, ack⟩ := x
  cases req <;> cases ack <;> rfl

theorem flagData_toNat (b : Bool) : (flagData b).toNat = b.toNat := by
  cases b <;> rfl

/-- Settles O35: the three commands have no check, and answer with the numbers above. -/
theorem latchReadsShowItsFlags : Obligations.LatchReadsShowItsFlags := by
  refine ⟨by decide, by decide, by decide, fun s => ?_⟩
  exact ⟨_, _, rfl, rfl, xfoStatusWord_toNat s.xfo, rfl, flagData_toNat s.xfo.req⟩

/-! ## The display core's commands -/

theorem exec_xfoIsexist_requested (hr : s.xfo.req = true) : exec .xfoIsexist s = done 1 s :=
  congrArg (fun b => done (flagData b) s) hr

theorem exec_xfoAck_not_streaming (hd : s.fsg.dstate ≠ .streaming) : exec .xfoAck s = raise .xfoProtocolB s :=
  if_pos hd

theorem exec_xfoAck_no_request (hd : s.fsg.dstate = .streaming) (hr : s.xfo.req = false) :
    exec .xfoAck s = raise .xfoAckWithoutRequest s :=
  (if_neg (not_not.2 hd)).trans (if_pos hr)

theorem exec_xfoAck_parks (hd : s.fsg.dstate = .streaming) (hr : s.xfo.req = true) :
    exec .xfoAck s =
      done 0 ((s.setXfo { s.xfo with ack := true }).setFsg { s.fsg with dstate := .parkedForFlash }) :=
  (if_neg (not_not.2 hd)).trans (if_neg (ne_false_of_eq_true hr))

theorem exec_xfoResume_not_parked (hd : s.fsg.dstate ≠ .parkedForFlash) :
    exec .xfoResume s = raise .xfoProtocolB s :=
  if_pos hd

theorem exec_xfoResume_request (hd : s.fsg.dstate = .parkedForFlash) (hr : s.xfo.req = true) :
    exec .xfoResume s = retry s :=
  (if_neg (not_not.2 hd)).trans (if_pos hr)

theorem exec_xfoResume_leaves (hd : s.fsg.dstate = .parkedForFlash) (hr : s.xfo.req = false) :
    exec .xfoResume s =
      done 0 ((s.setXfo { s.xfo with ack := false }).setFsg { s.fsg with dstate := .streaming }) :=
  (if_neg (not_not.2 hd)).trans (if_neg (ne_true_of_eq_false hr))

/-- Settles O36: the two checks of R162 in their order, then the park. -/
theorem ackParksTheDisplayCore : Obligations.AckParksTheDisplayCore := by
  refine ⟨by decide, fun s => ⟨?_, ?_, ?_⟩⟩
  · intro hf hd
    exact (exec_xfoAck_not_streaming hd).trans (raise_live _ hf)
  · intro hf hd hr
    exact (exec_xfoAck_no_request hd hr).trans (raise_live _ hf)
  · exact exec_xfoAck_parks

/-- Settles O37: the check of R163, the wait, then the way back. -/
theorem resumeLeavesThePark : Obligations.ResumeLeavesThePark := by
  refine ⟨by decide, fun s => ⟨?_, ?_, ?_⟩⟩
  · intro hf hd
    exact (exec_xfoResume_not_parked hd).trans (raise_live _ hf)
  · exact exec_xfoResume_request
  · exact exec_xfoResume_leaves

end Sys2Proof.Machine
end

section
/-! PROOFS. The flash rendezvous of `save()` (R164, R165, R227): one rule for each kind of client move, then the ten
moves in four parts: the start of `save()`, the park, the flash operation in the grant, and the resume. -/

namespace Sys2Proof.Machine

variable {i : Instr} {s t u : State} {d r : Word} {rest : List Input} {work : List EmuTask} {n : Nat}

/-! ## One move of a client -/

theorem run_of_step {M : Host.Core} {s t : M.State} (h : M.step s = .next t) (n : Nat) :
    M.run (n + 1) s = M.run n t := by
  rw [Host.Core.run, h]

/-- A live block serves the encoder's word of a command on its port by the command's meaning (R93, R94). -/
theorem serve_encoded {p : Port} (hwf : i.wf = true) (hp : i.port = p) (hf : s.ctlFault = 0) :
    serve p (encode i) d { s with queue := rest } = exec i (s.serving p d rest) :=
  serve_decoded (s := { s with queue := rest }) (decodeEncodeRoundTrip i hwf) hp hf

/-- A move of the emulation core on a task whose command is answered OK (R99). -/
theorem run_emuCommand {k : EmuTask} (hw : s.cfg.WellFormed) (hf : s.ctlFault = 0) (hq : s.queue = .runEmu :: rest)
    (he : s.emu = k :: work) (hk : k.command = some (i, d)) (hwf : i.wf = true) (hp : i.port = .a)
    (hx : exec i (s.serving .a d rest) = done r u)
    (ht : t = { u.answered .ok r with emu := k.after ⟨u.port, .ok, r⟩ ++ work }) :
    core.run (n + 1) s = core.run n t := by
  refine run_of_step (M := core) ?_ n
  calc step s = runEmu { s with queue := rest } := step_input hw hq
    _ = Result.andThen (serve .a (encode i) d { s with queue := rest }) (emuAnswered k work) := by
      simp only [runEmu, he, hk]
    _ = Result.andThen (done r u) (emuAnswered k work) := by rw [serve_encoded hwf hp hf, hx]
    _ = .next t := congrArg _ ht.symm

/-- A move of the display core on a task whose command is answered OK (R99). -/
theorem run_dispCommand {k : DispTask} {tasks : List DispTask} (hw : s.cfg.WellFormed) (hf : s.ctlFault = 0)
    (hq : s.queue = .runDisp :: rest) (he : s.disp = k :: tasks) (hk : k.command = some (i, d)) (hwf : i.wf = true)
    (hp : i.port = .b) (hx : exec i (s.serving .b d rest) = done r u)
    (ht : t = { u.answered .ok r with disp := k.after ⟨u.port, .ok, r⟩ ++ tasks }) :
    core.run (n + 1) s = core.run n t := by
  refine run_of_step (M := core) ?_ n
  calc step s = runDisp { s with queue := rest } := step_input hw hq
    _ = Result.andThen (serve .b (encode i) d { s with queue := rest }) (dispAnswered k tasks) := by
      simp only [runDisp, he, hk]
    _ = Result.andThen (done r u) (dispAnswered k tasks) := by rw [serve_encoded hwf hp hf, hx]
    _ = .next t := congrArg _ ht.symm

/-- A move of the emulation core on a task of its own software. -/
theorem run_emuLocal {k : EmuTask} (hw : s.cfg.WellFormed) (hq : s.queue = .runEmu :: rest) (he : s.emu = k :: work)
    (hk : k.command = none) (ht : t = emuLocal k work { s with queue := rest }) :
    core.run (n + 1) s = core.run n t := by
  refine run_of_step (M := core) ?_ n
  calc step s = runEmu { s with queue := rest } := step_input hw hq
    _ = .next t := by simp only [runEmu, he, hk, ht]

/-! ## The parts of the rendezvous -/

/-- `save()` of a dirty region with a slot starts the rendezvous (R227). -/
theorem saveTasks_dirty {c : Config} {e : Env} {k : Nat} (hd : e.dirty = true) (hk : currentSlot c e = some k) :
    saveTasks c e = (setProcAndWait k).map .job ++ [.clearDirty] := by
  simp [saveTasks, hd, hk]

/-- The emulation core requests; the display core finds the request and parks (R155, R161, R162). -/
theorem run_requestAndPark (hw : s.cfg.WellFormed) (hf : s.ctlFault = 0) (hx : s.xfo = ⟨false, false⟩)
    (hd : s.fsg.dstate = .streaming) (he : s.emu = .job (.issue .xfoRequest 0) :: work)
    (hdisp : s.disp = [.processOrWaitIfExist]) (hq : s.queue = .runEmu :: .runDisp :: .runDisp :: rest) :
    core.run (n + 3) s =
      core.run n ((({ s with
        xfo := ⟨true, true⟩
        fsg := { s.fsg with dstate := .parkedForFlash }
        emu := work
        disp := [.untilOk .xfoResume 0] } : State).serving .b 0 rest).answered .ok 0) := by
  have hr : s.xfo.req = false := congrArg Xfo.req hx
  have ha : s.xfo.ack = false := congrArg Xfo.ack hx
  calc core.run (n + 3) s
    _ = core.run (n + 2) ((({ s with
          xfo := ⟨true, s.xfo.ack⟩
          emu := work } : State).serving .a 0 (.runDisp :: .runDisp :: rest)).answered .ok 0) :=
      run_emuCommand hw hf hq he rfl rfl rfl (exec_xfoRequest_idle hr ha) rfl
    _ = core.run (n + 1) ((({ s with
          xfo := ⟨true, s.xfo.ack⟩
          emu := work
          disp := parkTasks } : State).serving .b 0 (.runDisp :: rest)).answered .ok 1) :=
      run_dispCommand hw hf rfl hdisp rfl rfl rfl (exec_xfoIsexist_requested rfl) rfl
    _ = core.run n _ :=
      run_dispCommand hw hf rfl rfl rfl rfl rfl (exec_xfoAck_parks hd rfl) rfl

/-- In the grant, the emulation core sees the acknowledgment, runs its one flash operation and clears the request
(R156, R157, R158). -/
theorem run_flashInTheGrant {k : Nat} (hw : s.cfg.WellFormed) (hf : s.ctlFault = 0) (hx : s.xfo = ⟨true, true⟩)
    (hk : k < s.cfg.numSlots) (hword : k < 2 ^ 32)
    (he : s.emu = .job (.untilOk .xfoWaitack 0) :: .job (.issue .xfoExec (dataOf k)) ::
      .job (.issue .xfoRelease 0) :: work)
    (hq : s.queue = .runEmu :: .runEmu :: .runEmu :: rest) :
    core.run (n + 3) s =
      core.run n ((({ s with
        xfo := ⟨false, true⟩
        env := flashSlot s.cfg k s.env
        emu := work } : State).serving .a 0 rest).answered .ok 0) := by
  have hr : s.xfo.req = true := congrArg Xfo.req hx
  have ha : s.xfo.ack = true := congrArg Xfo.ack hx
  have hdata : (dataOf k).toNat = k := dataOf_toNat hword
  calc core.run (n + 3) s
    _ = core.run (n + 2) ((({ s with
          emu := .job (.issue .xfoExec (dataOf k)) :: .job (.issue .xfoRelease 0) :: work } : State).serving .a 0
          (.runEmu :: .runEmu :: rest)).answered .ok 1) :=
      run_emuCommand hw hf hq he rfl rfl rfl (exec_xfoWaitack_grant hr ha) rfl
    _ = core.run (n + 1) ((({ s with
          env := flashSlot s.cfg (dataOf k).toNat s.env
          emu := .job (.issue .xfoRelease 0) :: work } : State).serving .a (dataOf k)
          (.runEmu :: rest)).answered .ok 0) :=
      run_emuCommand hw hf rfl rfl rfl rfl rfl (exec_xfoExec_flashes hr ha (hdata.trans_lt hk)) rfl
    _ = core.run n _ :=
      run_emuCommand hw hf rfl rfl rfl rfl rfl (exec_xfoRelease_grant hr ha) (by rw [hdata, ← ha]; rfl)

/-- The display core leaves the park; the emulation core sees that and marks the region clean (R159, R163, R227). -/
theorem run_resumeAndClean (hw : s.cfg.WellFormed) (hf : s.ctlFault = 0) (hx : s.xfo = ⟨false, true⟩)
    (hd : s.fsg.dstate = .parkedForFlash) (he : s.emu = .job (.untilOk .xfoWaitresume 0) :: .clearDirty :: work)
    (hdisp : s.disp = [.untilOk .xfoResume 0]) (hq : s.queue = .runDisp :: .runEmu :: .runEmu :: rest) :
    core.run (n + 3) s =
      core.run n ((({ s with
        xfo := ⟨false, false⟩
        fsg := { s.fsg with dstate := .streaming }
        env := { s.env with dirty := false }
        emu := work
        disp := [] } : State).serving .a 0 rest).answered .ok 0) := by
  have hr : s.xfo.req = false := congrArg Xfo.req hx
  calc core.run (n + 3) s
    _ = core.run (n + 2) ((({ s with
          xfo := ⟨false, false⟩
          fsg := { s.fsg with dstate := .streaming }
          disp := [] } : State).serving .b 0 (.runEmu :: .runEmu :: rest)).answered .ok 0) :=
      run_dispCommand hw hf hq hdisp rfl rfl rfl (exec_xfoResume_leaves hd hr) (by rw [← hr]; rfl)
    _ = core.run (n + 1) ((({ s with
          xfo := ⟨false, false⟩
          fsg := { s.fsg with dstate := .streaming }
          emu := .clearDirty :: work
          disp := [] } : State).serving .a 0 (.runEmu :: rest)).answered .ok 0) :=
      run_emuCommand hw hf rfl he rfl rfl rfl (exec_xfoWaitresume_idle rfl rfl) rfl
    _ = core.run n _ := run_emuLocal hw rfl rfl rfl rfl

/-- Settles O59: the start of `save()`, then the three parts; the resume gives back the display state that the park
took. -/
theorem saveRunsTheRendezvous : Obligations.SaveRunsTheRendezvous := by
  intro s k hw hf hx hd hdirty hslot hk hword he hdisp hq
  have hdisplay : ({ s.fsg with dstate := .streaming } : Fsg) = s.fsg := by rw [← hd]
  have hrun := calc core.run 10 s
    _ = core.run 9 { s with
          emu := (setProcAndWait k).map .job ++ [.clearDirty]
          queue := [.runEmu, .runDisp, .runDisp, .runEmu, .runEmu, .runEmu, .runDisp, .runEmu, .runEmu] } :=
      run_emuLocal hw hq he rfl (by simp only [emuLocal, saveTasks_dirty hdirty hslot, List.append_nil])
    _ = core.run 6 ((({ s with
          xfo := ⟨true, true⟩
          fsg := { s.fsg with dstate := .parkedForFlash }
          emu := [.job (.untilOk .xfoWaitack 0), .job (.issue .xfoExec (dataOf k)), .job (.issue .xfoRelease 0),
            .job (.untilOk .xfoWaitresume 0), .clearDirty]
          disp := [.untilOk .xfoResume 0] } : State).serving .b 0
          [.runEmu, .runEmu, .runEmu, .runDisp, .runEmu, .runEmu]).answered .ok 0) :=
      run_requestAndPark hw hf hx hd rfl hdisp rfl
    _ = core.run 3 ((({ s with
          xfo := ⟨false, true⟩
          fsg := { s.fsg with dstate := .parkedForFlash }
          env := flashSlot s.cfg k s.env
          emu := [.job (.untilOk .xfoWaitresume 0), .clearDirty]
          disp := [.untilOk .xfoResume 0] } : State).serving .a 0 [.runDisp, .runEmu, .runEmu]).answered .ok 0) :=
      run_flashInTheGrant hw hf rfl hk hword rfl rfl
    _ = core.run 0 ((({ s with
          xfo := ⟨false, false⟩
          fsg := { s.fsg with dstate := .streaming }
          env := { flashSlot s.cfg k s.env with dirty := false }
          emu := []
          disp := [] } : State).serving .a 0 []).answered .ok 0) :=
      run_resumeAndClean hw hf rfl rfl rfl rfl rfl
  exact ⟨_, hrun, rfl, hdisplay, rfl, rfl, rfl, hf, rfl, rfl, rfl, rfl⟩

end Sys2Proof.Machine
end

section
/-! PROOFS. Unit PAD (R175 to R183): each command's rule as one equation per outcome, `Translate` as one table of its
eight native bits, and the gestures that need an edge. -/

namespace Sys2Proof.Machine

variable {i : Instr} {s : State} {idx : Nat} {c : Config} {m n cur prev : Word}

/-! ## The commands -/

/-- Only the slots and players 0 and 1 exist (R175 to R177, R179). -/
theorem exec_pad_no_slot (hi : i = .padReport idx ∨ i = .padDetach idx ∨ i = .padCur idx ∨ i = .padRaw idx)
    (hx : 1 < idx) : exec i s = raise .range s := by
  rcases hi with rfl | rfl | rfl | rfl <;> exact if_pos hx

theorem exec_padReport_latches (hx : idx ≤ 1) :
    exec (.padReport idx) s = done 0 (s.setPad (s.pad.setRaw idx s.wdata)) :=
  if_neg (not_lt.2 hx)

theorem exec_padDetach_latches (hx : idx ≤ 1) :
    exec (.padDetach idx) s = done 0 (s.setPad (s.pad.setRaw idx Pad.absent)) :=
  if_neg (not_lt.2 hx)

theorem exec_padCur_reads (hx : idx ≤ 1) : exec (.padCur idx) s = done (s.pad.cur idx) s :=
  if_neg (not_lt.2 hx)

theorem exec_padRaw_reads (hx : idx ≤ 1) : exec (.padRaw idx) s = done (s.pad.raw idx) s :=
  if_neg (not_lt.2 hx)

/-- Settles O40: the range check, then the latch of slot 0 or of slot 1. -/
theorem reportsAreLatchedWhole : Obligations.ReportsAreLatchedWhole := by
  refine ⟨fun idx hidx => ⟨?_, ?_⟩, fun s => ⟨fun idx hf hx => ⟨?_, ?_⟩, ?_, ?_, ?_, ?_⟩⟩
  · exact decode_row_operand (.padReport 0) (by decide) rfl hidx
  · exact decode_row_operand (.padDetach 0) (by decide) rfl hidx
  · exact (exec_pad_no_slot (.inl rfl) hx).trans (raise_live _ hf)
  · exact (exec_pad_no_slot (.inr (.inl rfl)) hx).trans (raise_live _ hf)
  · exact exec_padReport_latches (idx := 0) (by decide)
  · exact exec_padReport_latches (idx := 1) (by decide)
  · exact exec_padDetach_latches (idx := 0) (by decide)
  · exact exec_padDetach_latches (idx := 1) (by decide)

/-- Settles O41: the range check, then the register of number 0 or 1; `PAD.PUSHED` has no check. -/
theorem padReadsShowTheirRegisters : Obligations.PadReadsShowTheirRegisters := by
  refine ⟨fun idx hidx => ⟨?_, ?_⟩, by decide, fun s => ⟨fun idx hf hx => ⟨?_, ?_⟩, ?_, ?_, rfl, ?_, ?_⟩⟩
  · exact decode_row_operand (.padCur 0) (by decide) rfl hidx
  · exact decode_row_operand (.padRaw 0) (by decide) rfl hidx
  · exact (exec_pad_no_slot (.inr (.inr (.inl rfl))) hx).trans (raise_live _ hf)
  · exact (exec_pad_no_slot (.inr (.inr (.inr rfl))) hx).trans (raise_live _ hf)
  · exact exec_padCur_reads (idx := 0) (by decide)
  · exact exec_padCur_reads (idx := 1) (by decide)
  · exact exec_padRaw_reads (idx := 0) (by decide)
  · exact exec_padRaw_reads (idx := 1) (by decide)

/-! ## The native bits -/

theorem has_iff (x m : Word) : has x m = true ↔ x &&& m ≠ 0 := bne_iff_ne

/-- Of two one-bit masks, the one tests the other's bit only when they are the same mask. -/
theorem has_oneBit_iff (hn : OneBit n) (hm : OneBit m) : has n m = true ↔ n = m := by
  constructor
  · intro h
    by_contra hne
    exact Bool.eq_false_iff.1 (has_of_ne hm hn hne) h
  · rintro rfl
    rw [has_iff, BitVec.and_self]
    rintro rfl
    exact absurd hn (by decide)

/-- A direction's bit: strictly beyond its own threshold, and no other direction's (R180). -/
theorem has_direction_iff {low high : Word} (hl : OneBit low) (hh : OneBit high) (hm : OneBit m) (v : Byte) :
    has (direction v low high) m = true ↔ (v.toNat < 64 ∧ low = m) ∨ (192 < v.toNat ∧ high = m) := by
  unfold direction Config.axisLo Config.axisHi
  split
  next hlow =>
    have hhigh : ¬ 192 < v.toNat := by omega
    simp [has_oneBit_iff hl hm, hlow, hhigh]
  next hlow =>
    split
    next hhigh => simp [has_oneBit_iff hh hm, hlow, hhigh]
    next hhigh => simp [hlow, hhigh]

theorem has_buttonBit_iff {native : Word} (hn : OneBit native) (hm : OneBit m) (b mask : Byte) :
    has (buttonBit b mask native) m = true ↔ b &&& mask ≠ 0 ∧ native = m := by
  unfold buttonBit
  split
  next hpressed => exact (has_oneBit_iff hn hm).trans (iff_and_self.2 fun _ => hpressed)
  next hreleased => simp [not_not.1 hreleased]

theorem axis0_toNat (raw : Word) : (axis0 raw).toNat = raw.toNat % 256 := by
  simp [axis0]

theorem axis1_toNat (raw : Word) : (axis1 raw).toNat = raw.toNat / 256 % 256 := by
  simp [axis1, Nat.shiftRight_eq_div_pow]

/-- The button byte's bit `k` is bit `24 + k` of the report (R36). -/
theorem buttons_and_twoPow (raw : Word) {k : Nat} (hk : k < 8) :
    buttons raw &&& BitVec.twoPow 8 k ≠ 0 ↔ raw.getLsbD (24 + k) = true := by
  have hbit : (buttons raw).getLsbD k = raw.getLsbD (24 + k) := by simp [buttons, hk]
  have hpow : BitVec.twoPow 8 k ≠ 0#8 := by
    intro h0
    have := congrArg (BitVec.getLsbD · k) h0
    simp [hk] at this
  rw [BitVec.and_twoPow, hbit]
  cases raw.getLsbD (24 + k) <;> simp [hpow]

/-- The device buttons of R7, at their bits of the report. -/
theorem buttons_pressed (raw : Word) :
    (buttons raw &&& Config.btnA ≠ 0 ↔ raw.getLsbD 24 = true) ∧
    (buttons raw &&& Config.btnB ≠ 0 ↔ raw.getLsbD 25 = true) ∧
    (buttons raw &&& Config.btnSelect ≠ 0 ↔ raw.getLsbD 30 = true) ∧
    (buttons raw &&& Config.btnStart ≠ 0 ↔ raw.getLsbD 31 = true) :=
  ⟨buttons_and_twoPow raw (k := 0) (by decide), buttons_and_twoPow raw (k := 1) (by decide),
    buttons_and_twoPow raw (k := 6) (by decide), buttons_and_twoPow raw (k := 7) (by decide)⟩

/-- `Translate` as a table (R180): a one-bit mask is set exactly when it is a native mask whose condition on the report
holds. -/
theorem translate_and_iff (h : c.MasksOk) (hm : OneBit m) (raw : Word) :
    translate c raw &&& m ≠ 0 ↔
      (raw.toNat % 256 < 64 ∧ c.mLeft = m ∨ 192 < raw.toNat % 256 ∧ c.mRight = m) ∨
      (raw.toNat / 256 % 256 < 64 ∧ c.mUp = m ∨ 192 < raw.toNat / 256 % 256 ∧ c.mDown = m) ∨
      (raw.getLsbD 24 = true ∧ c.mA = m) ∨ (raw.getLsbD 25 = true ∧ c.mB = m) ∨
      (raw.getLsbD 30 = true ∧ c.mSelect = m) ∨ (raw.getLsbD 31 = true ∧ c.mStart = m) := by
  obtain ⟨⟨hA, hB, hSel, hSta, hU, hD, hL, hR⟩, -⟩ := h
  obtain ⟨pA, pB, pSel, pSta⟩ := buttons_pressed raw
  rw [← has_iff]
  simp only [translate, has_or hm, Bool.or_eq_true, has_direction_iff hL hR hm, has_direction_iff hU hD hm,
    has_buttonBit_iff hA hm, has_buttonBit_iff hB hm, has_buttonBit_iff hSel hm, has_buttonBit_iff hSta hm,
    axis0_toNat, axis1_toNat, pA, pB, pSel, pSta, or_assoc]

/-- Settles O42: each mask meets its own row of the table and, the masks being distinct, no other. -/
theorem translateMapsAxesAndButtons : Obligations.TranslateMapsAxesAndButtons := by
  intro c raw h
  have table {m : Word} (hm : OneBit m) := translate_and_iff h hm raw
  obtain ⟨⟨hA, hB, hSel, hSta, hU, hD, hL, hR⟩, hdistinct⟩ := h
  have hreversed : c.masks.reverse.Nodup := List.nodup_reverse.2 hdistinct
  simp only [Config.masks, List.reverse_cons, List.reverse_nil, List.nil_append, List.cons_append, List.nodup_cons,
    List.mem_cons, List.not_mem_nil, or_false, not_or] at hdistinct hreversed
  refine ⟨?_, ?_, ?_, ?_, ?_, ?_, ?_, ?_, translate_within c raw⟩
  · exact (table hL).trans (by simp [hdistinct, hreversed])
  · exact (table hR).trans (by simp [hdistinct])
  · exact (table hU).trans (by simp [hdistinct, hreversed])
  · exact (table hD).trans (by simp [hdistinct, hreversed])
  · exact (table hA).trans (by simp [hreversed])
  · exact (table hB).trans (by simp [hdistinct, hreversed])
  · exact (table hSel).trans (by simp [hdistinct, hreversed])
  · exact (table hSta).trans (by simp [hdistinct, hreversed])

/-! ## The gestures -/

/-- The third bit of a gesture word, next to `gestBits_getLsbD` (R40). -/
theorem gestBits_saveReset : ∀ saveReset next prev : Bool,
    (BitVec.ofBool saveReset ++ BitVec.ofBool next ++ BitVec.ofBool prev).getLsbD 2 = saveReset := by decide

/-- SAVE_RESET needs an edge of START (R182). -/
theorem gesture_saveReset {pushed : Word} (h : (gesture c cur pushed).getLsbD 2 = true) :
    has pushed c.mStart = true := by
  unfold gesture at h
  split at h
  · simp only [gestBits_saveReset, Bool.and_eq_true] at h
    obtain ⟨⟨hstart, -⟩, -⟩ := h
    exact hstart
  · simp at h

/-- A button held in the previous snapshot has no rising edge (R181). -/
theorem has_edge_of_held (hm : OneBit m) (hp : prev &&& m ≠ 0) : has (edge cur prev) m = false := by
  rw [← has_iff, has_eq_getLsbD hm] at hp
  rw [has_eq_getLsbD hm, edge, BitVec.getLsbD_and, BitVec.getLsbD_not, hp]
  simp

/-- What needs an edge of a held button does not happen (R183 (a)). -/
theorem eq_false_of_held {b : Bool} (hm : OneBit m) (hp : prev &&& m ≠ 0)
    (hedge : b = true → has (edge cur prev) m = true) : b = false :=
  Bool.eq_false_iff.2 fun hb => Bool.eq_false_iff.1 (has_edge_of_held hm hp) (hedge hb)

/-- Settles O43: each gesture needs the edge of its own button. -/
theorem heldButtonsFireNoGestureAgain : Obligations.HeldButtonsFireNoGestureAgain := by
  intro s hmasks
  obtain ⟨⟨-, -, -, hSta, -, -, hL, hR⟩, -⟩ := hmasks
  refine ⟨_, rfl, ?_, ?_, ?_⟩
  · exact fun hp => eq_false_of_held hL hp gesture_prev
  · exact fun hp => eq_false_of_held hR hp gesture_next
  · exact fun hp => eq_false_of_held hSta hp gesture_saveReset

end Sys2Proof.Machine
end

section
/-! PROOFS. Unit FSG (R200 to R205): the gesture word bit by bit, the line lock, and `FSG.DSYNC` as one equation per
case of its rule. -/

namespace Sys2Proof.Machine

variable {s : State}

/-! ## The frame tick -/

/-- No gesture without select (R182). -/
theorem gesture_eq_zero {c : Config} {cur pushed : Word} (h : ¬cur &&& c.mSelect ≠ 0) : gesture c cur pushed = 0 :=
  if_neg (mt (has_iff _ _).1 h)

/-- With select held, the gesture word is its three bits (R182). -/
theorem gesture_of_select {c : Config} {cur pushed : Word} (h : cur &&& c.mSelect ≠ 0) :
    gesture c cur pushed = BitVec.ofBool (has pushed c.mStart && has cur c.mA && has cur c.mB) ++
      BitVec.ofBool (has pushed c.mRight) ++ BitVec.ofBool (has pushed c.mLeft) :=
  if_pos ((has_iff _ _).2 h)

/-- When each gesture is reported (R182): bit 0 PREV, bit 1 NEXT, bit 2 SAVE_RESET. -/
theorem gesture_bits_iff (c : Config) (cur pushed : Word) :
    ((gesture c cur pushed).getLsbD 0 = true ↔ cur &&& c.mSelect ≠ 0 ∧ pushed &&& c.mLeft ≠ 0) ∧
    ((gesture c cur pushed).getLsbD 1 = true ↔ cur &&& c.mSelect ≠ 0 ∧ pushed &&& c.mRight ≠ 0) ∧
    ((gesture c cur pushed).getLsbD 2 = true ↔
      cur &&& c.mSelect ≠ 0 ∧ pushed &&& c.mStart ≠ 0 ∧ cur &&& c.mA ≠ 0 ∧ cur &&& c.mB ≠ 0) := by
  by_cases hselect : cur &&& c.mSelect ≠ 0
  · obtain ⟨hprev, hnext⟩ := gestBits_getLsbD (has pushed c.mStart && has cur c.mA && has cur c.mB)
      (has pushed c.mRight) (has pushed c.mLeft)
    simp only [gesture_of_select hselect, hprev, hnext, gestBits_saveReset, Bool.and_eq_true, has_iff,
      and_assoc, iff_true_intro hselect, true_and]
  · simp [gesture_eq_zero hselect, not_not.1 hselect]

/-- Settles O44: the registers of the tick are the model's by definition; the gesture bits and the system bit by their
rules. -/
theorem frameTickTakesTheSnapshot : Obligations.FrameTickTakesTheSnapshot := by
  refine ⟨by decide, fun s => ?_⟩
  obtain ⟨hprev, hnext, hsave⟩ :=
    gesture_bits_iff s.cfg (translate s.cfg s.pad.raw0) (edge (translate s.cfg s.pad.raw0) s.pad.prev)
  exact ⟨_, rfl, rfl, hprev, hnext, hsave, sysBit_iff _, rfl⟩

/-! ## The registers on the data path -/

/-- Settles O45: the four commands have no check, and the display core's state has the numbers of R42. -/
theorem fsgReadsShowTheirRegisters : Obligations.FsgReadsShowTheirRegisters := by
  refine ⟨by decide, by decide, by decide, by decide, fun s => ?_⟩
  refine ⟨flagData s.fsg.sys, zext s.fsg.dstate.code, rfl, rfl, flagData_toNat s.fsg.sys, rfl, rfl, ?_, ?_, ?_⟩
  all_goals
    intro hd
    rw [hd]
    rfl

/-! ## The line lock -/

theorem exec_fsgDsync_locks (hd : s.fsg.dstate = .waitValidTiming) (hl : s.fsg.lock = true) :
    exec .fsgDsync s = done 1 (s.setFsg { s.fsg with dstate := .streaming }) := by
  simp only [exec, execFsgDsync, hd, if_pos hl]

theorem exec_fsgDsync_waits (hd : s.fsg.dstate = .waitValidTiming) (hl : s.fsg.lock = false) :
    exec .fsgDsync s = retry s := by
  simp only [exec, execFsgDsync, hd, if_neg (ne_true_of_eq_false hl)]

theorem exec_fsgDsync_loses_lock (hd : s.fsg.dstate = .streaming) (hl : s.fsg.lock = false) :
    exec .fsgDsync s = retry (s.setFsg { s.fsg with dstate := .waitValidTiming }) := by
  simp only [exec, execFsgDsync, hd, if_pos hl]

theorem exec_fsgDsync_streams (hd : s.fsg.dstate = .streaming) (hl : s.fsg.lock = true) :
    exec .fsgDsync s = done 1 s := by
  simp only [exec, execFsgDsync, hd, if_neg (ne_false_of_eq_true hl)]

theorem exec_fsgDsync_parked (hd : s.fsg.dstate = .parkedForFlash) : exec .fsgDsync s = done 2 s := by
  simp only [exec, execFsgDsync, hd]

/-- Settles O46: the five cases of R204, each by its equation. -/
theorem dsyncFollowsTheLock : Obligations.DsyncFollowsTheLock :=
  ⟨by decide, fun _ => ⟨exec_fsgDsync_locks, exec_fsgDsync_waits, exec_fsgDsync_loses_lock, exec_fsgDsync_streams,
    exec_fsgDsync_parked⟩⟩

/-- The test of `wdata[0]` against 1 is bit 0 itself (R205). -/
theorem decide_bit0_eq_one (w : Word) : decide (bit0 w = 1) = w.getLsbD 0 := by
  have hbit : bit0 w = BitVec.ofBool (w.getLsbD 0) := by
    rw [bit0_eq_setWidth, BitVec.setWidth_one]
  rw [hbit]
  cases w.getLsbD 0 <;> rfl

/-- Settles O47: the lock register takes bit 0 of the data word. -/
theorem lockDrivesTheLockRegister : Obligations.LockDrivesTheLockRegister :=
  ⟨by decide, fun s => congrArg (fun b => done 0 (s.setFsg { s.fsg with lock := b })) (decide_bit0_eq_one s.wdata)⟩

end Sys2Proof.Machine
end

section
/-! PROOFS. The environment (R221 to R232): where the save slots lie, saving and loading a slot, the catalog's
selection, the emulator's writes, and `save()` when there is nothing to save. -/

namespace Sys2Proof.Machine

variable {c : Config} {e : Env} {s : State} {rest : List Input}

/-! ## Slot addresses -/

/-- All slots lie at addresses of the storage (log 9), so the subtraction of R224 is exact. -/
theorem slotAddr_add {k : Nat} (hw : c.WellFormed) (hk : k < c.numSlots) :
    slotAddr c k + c.slotSize * (k + 1) = c.nvBase := by
  obtain ⟨-, -, -, -, -, -, hfit, -⟩ := hw
  exact Nat.sub_add_cancel ((Nat.mul_le_mul_left _ hk).trans hfit)

/-- Settles O54: the document's numbers compute; slot `m` begins at least one slot's bytes below slot `k`, since both
addresses, with the bytes up to the base, add up to the base. -/
theorem saveSlotsDoNotOverlap : Obligations.SaveSlotsDoNotOverlap := by
  refine ⟨fun c hb hs => by simp [slotAddr, hb, hs], fun c k => slotAddr_add, fun c k m hw hkm hm => ?_⟩
  have hlow := slotAddr_add hw hm
  have hhigh := slotAddr_add hw (hkm.trans hm)
  have hstep : c.slotSize * (k + 1) + c.slotSize ≤ c.slotSize * (m + 1) :=
    Nat.mul_le_mul_left c.slotSize (Nat.succ_le_succ hkm)
  omega

/-! ## Saving and loading a slot -/

/-- A flash operation leaves the selection, and so the selected slot, as it is (R225, R226). -/
theorem currentSlot_flashSlot (c : Config) (k : Nat) (e : Env) :
    currentSlot c (flashSlot c k e) = currentSlot c e := rfl

/-- Settles O55: `load()` finds the same slot selected and takes from it the bytes that the flash operation put
there. -/
theorem loadAfterSaveReproducesTheBytes : Obligations.LoadAfterSaveReproducesTheBytes := by
  intro c e k hk
  obtain ⟨hflashed, -, -⟩ := flashSlot_spec c k e
  obtain ⟨hloaded, hframe⟩ := loadSave_some ((currentSlot_flashSlot c k e).trans hk)
  exact ⟨fun j hj => (hloaded j hj).trans (hflashed j hj), congrArg Env.dirty hframe⟩

/-! ## The catalog's selection -/

/-- Where R232 makes `next()` and `prev()` do nothing: in single-image mode and on an empty catalog. -/
abbrev Env.SelectionFixed (e : Env) : Prop := e.mode = .singleImage ∨ e.catalog = []

theorem catalogNext_fixed (h : e.SelectionFixed) : catalogNext e = e := if_pos h

theorem catalogPrev_fixed (h : e.SelectionFixed) : catalogPrev e = e := if_pos h

/-- The environment with entry `i`, counted round the catalog, selected. -/
def Env.select (e : Env) (i : Nat) : Env := { e with selectedIndex := i % e.catalog.length }

theorem Env.select_selectedIndex (hs : e.selectedIndex < e.catalog.length) : e.select e.selectedIndex = e :=
  congrArg (fun i => { e with selectedIndex := i }) (Nat.mod_eq_of_lt hs)

theorem Env.select_add_length (e : Env) (i : Nat) : e.select (i + e.catalog.length) = e.select i :=
  congrArg (fun i => { e with selectedIndex := i }) (Nat.add_mod_right ..)

theorem catalogNext_moves (h : ¬e.SelectionFixed) : catalogNext e = e.select (e.selectedIndex + 1) := if_neg h

theorem catalogPrev_moves (h : ¬e.SelectionFixed) :
    catalogPrev e = e.select (e.selectedIndex + (e.catalog.length - 1)) := if_neg h

theorem catalogNext_select (h : ¬e.SelectionFixed) (i : Nat) : catalogNext (e.select i) = e.select (i + 1) :=
  (catalogNext_moves (e := e.select i) h).trans
    (congrArg (fun i => { e with selectedIndex := i }) (Nat.mod_add_mod ..))

theorem catalogPrev_select (h : ¬e.SelectionFixed) (i : Nat) :
    catalogPrev (e.select i) = e.select (i + (e.catalog.length - 1)) :=
  (catalogPrev_moves (e := e.select i) h).trans
    (congrArg (fun i => { e with selectedIndex := i }) (Nat.mod_add_mod ..))

/-- `next()` then `prev()` is one whole turn round the catalog. -/
theorem catalogPrev_catalogNext (hs : e.selectedIndex < e.catalog.length) : catalogPrev (catalogNext e) = e := by
  by_cases h : e.SelectionFixed
  · rw [catalogNext_fixed h, catalogPrev_fixed h]
  · have hturn : e.selectedIndex + 1 + (e.catalog.length - 1) = e.selectedIndex + e.catalog.length := by omega
    rw [catalogNext_moves h, catalogPrev_select h, hturn, Env.select_add_length, Env.select_selectedIndex hs]

/-- `prev()` then `next()` is one whole turn round the catalog. -/
theorem catalogNext_catalogPrev (hs : e.selectedIndex < e.catalog.length) : catalogNext (catalogPrev e) = e := by
  by_cases h : e.SelectionFixed
  · rw [catalogPrev_fixed h, catalogNext_fixed h]
  · have hturn : e.selectedIndex + (e.catalog.length - 1) + 1 = e.selectedIndex + e.catalog.length := by omega
    rw [catalogPrev_moves h, catalogNext_select h, hturn, Env.select_add_length, Env.select_selectedIndex hs]

theorem catalogNext_iterate_select (h : ¬e.SelectionFixed) (i n : Nat) :
    catalogNext^[n] (e.select i) = e.select (i + n) := by
  induction n with
  | zero => rfl
  | succ n ih => rw [Function.iterate_succ_apply', ih, catalogNext_select h, Nat.add_assoc]

/-- As many `next()` as there are entries are one whole turn round the catalog. -/
theorem catalogNext_iterate_length (hs : e.selectedIndex < e.catalog.length) :
    catalogNext^[e.catalog.length] e = e := by
  by_cases h : e.SelectionFixed
  · exact Function.iterate_fixed (catalogNext_fixed h) _
  · have hturn := catalogNext_iterate_select h e.selectedIndex e.catalog.length
    rwa [Env.select_add_length, Env.select_selectedIndex hs] at hturn

/-- Back by one round a cycle, as the integers count it, is forward by all but one. -/
theorem natCast_add_pred_mod (i : Nat) {n : Nat} (hn : 0 < n) :
    (((i + (n - 1)) % n : Nat) : Int) = ((i : Int) - 1) % n :=
  calc (((i + (n - 1)) % n : Nat) : Int)
    _ = ((i : Int) - 1 + n) % n := by
      rw [Int.natCast_mod]
      congr 1
      omega
    _ = ((i : Int) - 1) % n := Int.add_emod_right ..

/-- Settles O56: the moves where the selection is fixed and where it is not, then the way back from each. -/
theorem catalogSelectionWraps : Obligations.CatalogSelectionWraps := by
  refine ⟨fun e h => ⟨catalogNext_fixed h, catalogPrev_fixed h⟩, fun e hmode hcat => ?_, fun e hs =>
    ⟨catalogPrev_catalogNext hs, catalogNext_catalogPrev hs, catalogNext_iterate_length hs⟩⟩
  have h : ¬e.SelectionFixed := by simp [hmode, hcat]
  refine ⟨catalogNext_moves h, ?_, catalogPrev_eq e⟩
  rw [catalogPrev_moves h]
  exact natCast_add_pred_mod _ (List.length_pos_iff.2 hcat)

/-! ## The emulator's writes -/

theorem emulatorWrite_inside {off : Nat} {bytes : List Byte} (h : off + bytes.length ≤ s.cfg.slotSize) :
    emulatorWrite off bytes s = .next { s with env := s.env.saveWrite off bytes } := if_pos h

theorem emulatorWrite_outside {off : Nat} {bytes : List Byte} (h : s.cfg.slotSize < off + bytes.length) :
    emulatorWrite off bytes s = .fault .saveRegionRange := if_neg h.not_ge

/-- Settles O60: a write past the region stops the machine; one inside reads back where it wrote and only there. -/
theorem emulatorWritesStayInTheSaveRegion : Obligations.EmulatorWritesStayInTheSaveRegion := by
  intro s off bytes rest hw hq
  have hstep : step s = emulatorWrite off bytes { s with queue := rest } := step_input hw hq
  refine ⟨fun h => hstep.trans (emulatorWrite_outside h), fun h =>
    ⟨_, hstep.trans (emulatorWrite_inside h), ?_, ?_, rfl⟩⟩
  · exact fun j hj => Env.saveByte_saveWrite_at s.env off j bytes hj
  · exact fun a ha => Env.saveByte_saveWrite_other s.env off a bytes ha

/-! ## `save()` with nothing to save -/

/-- `save()` of a clean region, or with no slot, has nothing to go on to do (R227). -/
theorem saveTasks_eq_nil (h : e.dirty = false ∨ currentSlot c e = none) : saveTasks c e = [] := by
  rcases h with hclean | hnone
  · exact if_pos hclean
  · simp [saveTasks, hnone]

/-- A move of the emulation core on a task of its own software runs that piece of software: no command goes out. -/
theorem step_emuLocal {k : EmuTask} {work : List EmuTask} (hw : s.cfg.WellFormed) (hq : s.queue = .runEmu :: rest)
    (he : s.emu = k :: work) (hk : k.command = none) :
    step s = .next (emuLocal k work { s with queue := rest }) := by
  rw [step_input hw hq]
  simp only [handleInput, runEmu, he, hk]

/-- Settles O57: the move puts no task in the place of `save()`. -/
theorem cleanSavePerformsNoFlashOperation : Obligations.CleanSavePerformsNoFlashOperation := by
  intro s work rest hw hq he h
  rw [step_emuLocal hw hq he rfl]
  simp only [emuLocal, saveTasks_eq_nil h, List.nil_append]

end Sys2Proof.Machine
end

section
/-! PROOFS. Faults and reset (R251 to R255, R280): reading the fault register, what a faulting command does, what a dead
block does, and the reset input, its only way out. -/

namespace Sys2Proof.Machine

variable {i : Instr} {s t u : State} {rest : List Input}

/-! ## Reading the fault register -/

/-- The words R255 writes decode to the `CTL.FAULT` commands. -/
theorem decode_ctlWord (p : Port) : decode (ctlWord p) = .ok (ctlFaultOf p) := by
  rw [← encode_ctlFaultOf, decode_ctlFaultOf]

/-- Settles O7: the decoding and the rule of `CTL.FAULT`, once on each port. -/
theorem ctlFaultReadsTheFaultRegister : Obligations.CtlFaultReadsTheFaultRegister :=
  ⟨decode_ctlWord .a, decode_ctlWord .b, decode_ctlWord .x,
    fun s => ⟨exec_ctlFaultOf .a s, exec_ctlFaultOf .b s, exec_ctlFaultOf .x s⟩⟩

/-! ## A faulting command -/

/-- No command's effect writes the fault register; only raising a fault does (R251). -/
theorem Effect.ctlFault_eq (he : Effect i s u) : u.ctlFault = s.ctlFault := by
  cases he <;> rfl

/-- Settles O8: of the three ways a command ends, an answer and an effect with its answer leave the fault register at 0,
and the first fault leaves its code. -/
theorem aFaultingCommandDoesNothingElse : Obligations.AFaultingCommandDoesNothingElse := by
  intro i s t hlive h hfault
  rcases exec_next h with ⟨st, d, rfl⟩ | ⟨c, rfl⟩ | ⟨u, st, d, hu, rfl⟩
  · exact absurd hlive hfault
  · rw [State.takeFault_live c hlive]
    exact ⟨rfl, c.code_range.2⟩
  · exact absurd (hu.ctlFault_eq.trans hlive) hfault

/-! ## A dead block -/

theorem SameMachine.sameBlock (h : SameMachine s t) : SameBlock s t := by
  cases h
  exact ⟨rfl, rfl, rfl, rfl, rfl, rfl⟩

theorem sameBlock_setEnv (s : State) (e : Env) : SameBlock s (s.setEnv e) := ⟨rfl, rfl, rfl, rfl, rfl, rfl⟩

/-- A dead block answers whatever is presented to it, and does nothing else (R93 steps 1 and 2). -/
theorem serve_sameMachine_of_dead {p : Port} {w d : Word} (hf : s.ctlFault ≠ 0) (h : serve p w d s = .next t) :
    SameMachine s t := by
  refine (sameMachine_present s p d).trans ?_
  rcases serve_next h with ⟨i, -, hlive | rfl, he⟩ | ⟨-, rfl⟩ | ⟨hlive, -⟩
  · exact absurd hlive hf
  · rw [exec_ctlFaultOf] at he
    cases he
    exact sameMachine_respond ..
  · exact sameMachine_respond ..
  · exact absurd hlive hf

/-- The emulation core's own software writes its task list and the environment, neither of which is the block's. -/
theorem emuLocal_sameBlock (k : EmuTask) (work : List EmuTask) (s : State) : SameBlock s (emuLocal k work s) := by
  obtain ⟨l, e, he, -⟩ := emuLocal_eq k work s
  rw [he]
  exact sameBlock_setEnv s e

theorem runEmu_sameBlock_of_dead (hf : s.ctlFault ≠ 0) (h : runEmu s = .next t) : SameBlock s t := by
  rcases runEmu_next h with ⟨-, rfl⟩ | ⟨k, work, i, d, u, -, -, hu, rfl⟩ | ⟨k, work, -, -, rfl⟩
  · exact (SameMachine.refl t).sameBlock
  · exact ((serve_sameMachine_of_dead hf hu).trans (sameMachine_emuAnswered k work u)).sameBlock
  · exact emuLocal_sameBlock k work s

theorem runDisp_sameBlock_of_dead (hf : s.ctlFault ≠ 0) (h : runDisp s = .next t) : SameBlock s t := by
  rcases runDisp_next h with ⟨-, rfl⟩ | ⟨k, work, i, d, u, -, -, hu, rfl⟩ | ⟨k, work, -, -, rfl⟩
  · exact (SameMachine.refl t).sameBlock
  · exact ((serve_sameMachine_of_dead hf hu).trans (sameMachine_dispAnswered k work u)).sameBlock
  · exact (sameMachine_dispLocal k work s).sameBlock

/-- No input but the reset input reaches a dead block: commands are only answered, and the others are not its own. -/
theorem handleInput_sameBlock_of_dead {inp : Input} (hf : s.ctlFault ≠ 0) (hr : inp ≠ .reset)
    (h : handleInput inp s = .next t) : SameBlock s t := by
  cases inp <;> simp only [handleInput] at h
  case command => exact (serve_sameMachine_of_dead hf h).sameBlock
  case reset => exact absurd rfl hr
  case saveWrite off bytes =>
    unfold emulatorWrite at h
    split at h <;> cases h
    exact sameBlock_setEnv ..
  case markDirty =>
    cases h
    exact sameBlock_setEnv ..
  case emuWork =>
    cases h
    exact (SameMachine.mk ..).sameBlock
  case dispWork =>
    cases h
    exact (SameMachine.mk ..).sameBlock
  case runEmu => exact runEmu_sameBlock_of_dead hf h
  case runDisp => exact runDisp_sameBlock_of_dead hf h

/-- Settles O9: the step finds no input, or handles one that is not the reset input. -/
theorem deadBlockNeverChanges : Obligations.DeadBlockNeverChanges := by
  intro s t hf hr h
  obtain ⟨-, ⟨-, rfl⟩ | ⟨inp, rest, hq, hi⟩⟩ := step_next h
  · exact (SameMachine.refl t).sameBlock
  · have hinp : inp ≠ .reset := by
      rintro rfl
      simp [State.resetNext, hq] at hr
    exact handleInput_sameBlock_of_dead (s := { s with queue := rest }) hf hinp hi

/-! ## The reset input -/

/-- The reset input is served in every state, a dead one too (R254, R280). -/
theorem step_reset (hw : s.cfg.WellFormed) (hq : s.queue = .reset :: rest) :
    step s = .next { s with queue := rest }.resetBlock :=
  step_input hw hq

/-- The reset input gives each register of the block the value it has right after reset (R47, R280). -/
theorem resetBlock_sameBlock (s : State) : SameBlock (State.resetWith s.cfg) s.resetBlock :=
  ⟨rfl, rfl, rfl, rfl, rfl, rfl⟩

/-- Settles O53: the step is `State.resetBlock` with the input taken, which keeps the environment, the configuration and
the inputs. -/
theorem resetInputRestoresTheBlock : Obligations.ResetInputRestoresTheBlock := by
  intro s rest hw hq
  exact ⟨_, step_reset hw hq, resetBlock_sameBlock { s with queue := rest }, State.resetBlock_env _,
    State.resetBlock_cfg _, State.resetBlock_queue _⟩

end Sys2Proof.Machine
end
